-- ==== Sys2Proof/Word.lean ====
section
/-! DEFINITION. The words of the block: one abbreviation for each of the seven formats of
spec/30_encoding.md rule R60 that is a string of bits, and the register width of the timer. -/

namespace Sys2Proof

/-- Format K: one character of identifier text (R69). -/
abbrev Byte := BitVec 8

/-- Format C: a host command with its operands (R61). -/
abbrev CommandWord := BitVec 103

/-- Format R: the response to a command (R67). -/
abbrev ResponseWord := BitVec 105

/-- Format V: the bit-vector of an identifier, bit 19 first in time (R70). -/
abbrev IdBits := BitVec 20

/-- Format F: a packed frame, symbol `k` in bits `2k+1 : 2k` (R71). -/
abbrev PackedFrame := BitVec 82

/-- Format RGB: red in bits 23:16, green in 15:8, blue in 7:0 (R72). -/
abbrev Rgb := BitVec 24

/-- The registers RATE and TMR are TMR_W = 31 bits (R7, R10). -/
abbrev TimeUnits := BitVec 31

end Sys2Proof
end

