-- ==== Sys2Proof/Config.lean ====
section
/-! DEFINITION. The parameters of spec/00_scope.md: those the document fixes (rule R6), those the
spec chose (rule R7), and the one it leaves open. -/

namespace Sys2Proof.Config

/-- ID_LEN: characters in an identifier (R6). -/
abbrev idLen : Nat := 5

/-- RADIX: base of the identifier text (R6). -/
abbrev radix : Nat := 16

/-- ID_MAX: largest identifier value (R6). -/
abbrev idMax : Nat := 1048575

/-- BITS: width of the bit-vector (R6). -/
abbrev bits : Nat := 20

/-- NSYM: number of symbols (R6). -/
abbrev nsym : Nat := 4

/-- FRAME_LEN: symbols in a frame (R6). -/
abbrev frameLen : Nat := 41

/-- DEFAULT_RATE: the rate used when the host gives none, in time units (R6, R64). -/
abbrev defaultRate : Int := 200

/-- ID_CAP: character slots in the identifier operand (R7). -/
abbrev idCap : Nat := 8

/-- RATE_MAX: the largest rate (R7, R124). -/
abbrev rateMax : Nat := 2147483647

/-- LOOP_W: bits of the loop counter (R7, R17). -/
abbrev loopW : Nat := 16

/-- The first value `toBitVector` refuses, 2^20 (R95). -/
abbrev overflowAt : Nat := 1048576

/-- TIME_UNIT: the real duration between two TU events, in an unnamed unit of real time. The spec
leaves it open (R7, R9, R223), so it has no body: nothing can be proved of its value. -/
opaque timeUnit : Nat

/-- Time units in one frame at rate `r` (R139, R223). -/
abbrev frameTimeUnits (r : Nat) : Nat := frameLen * r

/-- The real duration of `n` time units (R223): known only up to the open parameter. -/
abbrev realTime (n : Nat) : Nat := n * timeUnit

end Sys2Proof.Config
end

