-- ==== Sys2Proof/Syntax.lean ====
section
/-! DEFINITION. The syntax: the four frame symbols, the operand fields of a command word, the ten
rows of spec/opcode_table.json as the one inductive `Instr`, the events of the step function, and
the forms in which an instruction is presented to the block. -/

namespace Sys2Proof

/-- The closed set of four discrete signal values (R66). -/
inductive FrameSymbol where
  | zero
  | one
  | delimiter
  | terminator
  deriving DecidableEq, Repr

/-- The operand fields of a command word, format C without `op` (R61). Every command carries all
four, whether it uses them or not (R65). -/
structure CommandFields where
  /-- `rv`, bit 100: the `rate` field is the host's rate. -/
  rv : Bool
  /-- `id_len`, bits 99:96: number of characters in the identifier text. -/
  idLen : BitVec 4
  /-- `id_chars`, bits 95:32: eight character slots, slot 0 in the most significant byte. -/
  idChars : BitVec 64
  /-- `rate`, bits 31:0: the rate in time units, two's complement. -/
  rate : BitVec 32
  deriving DecidableEq, Repr

/-- One constructor for each row of spec/opcode_table.json: the four host commands (R62), the four
frame symbols a session executes one per tick (R66), and the two pin events (R75). -/
inductive Instr where
  /-- NOP: do nothing (R129). -/
  | nop (f : CommandFields)
  /-- ENC: encode an identifier and return the result (R103). -/
  | enc (f : CommandFields)
  /-- START: encode an identifier and begin playing its frame (R122). -/
  | start (f : CommandFields)
  /-- STOP: end the session, if there is one (R127). -/
  | stop (f : CommandFields)
  /-- ZERO: bit value 0 (R162). -/
  | zero
  /-- ONE: bit value 1 (R163). -/
  | one
  /-- DELIMITER: separator after every bit (R164). -/
  | delimiter
  /-- TERMINATOR: end of one full frame (R165). -/
  | terminator
  /-- TU: one time unit has elapsed (R130). -/
  | tu
  /-- RESET: every register to its reset value (R210). -/
  | reset
  deriving DecidableEq, Repr

/-- What an agent can do to the block, one at a time (R8, R23): the reset source, the time-unit
source, the host. -/
inductive Event where
  | reset
  | tu
  | cmd (w : CommandWord)
  deriving DecidableEq, Repr

/-- The forms in which an instruction reaches the block: a command word on the command port
(format C), a symbol code in the frame store (format S), or the level of one of the two pins
(format PIN, R75). -/
inductive Encoding where
  | command (w : CommandWord)
  | symbol (c : BitVec 2)
  | tuPin (b : BitVec 1)
  | rstPin (b : BitVec 1)
  deriving DecidableEq, Repr

/-- Why something presented to the decoder is no instruction. -/
inductive DecodeError where
  /-- A pin at level 0 is no event (R75). -/
  | pinLow
  /-- A number with a set bit above the width of its format (R60: every format has one length). -/
  | wordTooWide
  /-- A width that no format of the opcode table has (R60). -/
  | noSuchFormat
  deriving DecidableEq, Repr

end Sys2Proof
end

