-- ==== Sys2Proof/WellFormed.lean ====
section
/-! DEFINITION. Well-formed instructions: the canonical words of spec/30_encoding.md rule R65, which
the script notation of rule R77 produces. The block itself accepts every word (R73, R74): decoding
and execution never ask for canonicity. -/

namespace Sys2Proof

/-- All four operand fields are zero: the canonical operand of NOP and STOP (R65). -/
def CommandFields.allClear (f : CommandFields) : Bool :=
  !f.rv && f.idLen == 0 && f.idChars == 0 && f.rate == 0

/-- Every character slot at or beyond `id_len` is zero (R65): shifting the first `id_len` slots out
at the top leaves nothing. -/
def CommandFields.slotsClear (f : CommandFields) : Bool :=
  f.idChars <<< (8 * f.idLen.toNat) == 0

/-- `rate` is zero when `rv` is 0 (R65). -/
def CommandFields.rateClear (f : CommandFields) : Bool :=
  f.rv || f.rate == 0

/-- ENC ignores `rv` and `rate`, so its canonical word has both zero (R65). -/
def CommandFields.noRate (f : CommandFields) : Bool :=
  !f.rv && f.rate == 0

/-- The canonical instructions (R65). -/
def Instr.wellFormed : Instr → Bool
  | .nop f => f.allClear
  | .enc f => f.noRate && f.slotsClear
  | .start f => f.rateClear && f.slotsClear
  | .stop f => f.allClear
  | .zero => true
  | .one => true
  | .delimiter => true
  | .terminator => true
  | .tu => true
  | .reset => true

end Sys2Proof
end

