-- ==== Sys2Proof/Decode.lean ====
section
/-! DEFINITION. Decoding and encoding: the bit positions of spec/30_encoding.md. Decoding a command
word is total (R74: no encoding is illegal); what is refused, by name, is a pin at level 0 and a
number that is no word of any format. -/

namespace Sys2Proof

/-! ### Format C (R61) -/

/-- `op`, bits 102:101. -/
def opField (w : CommandWord) : BitVec 2 := w.extractLsb' 101 2

/-- The operand fields of a command word. -/
def operandFields (w : CommandWord) : CommandFields :=
  { rv := w.getLsbD 100
    idLen := w.extractLsb' 96 4
    idChars := w.extractLsb' 32 64
    rate := w.extractLsb' 0 32 }

/-- The opcode map (R62, R74): `op` and nothing else selects the command. -/
def decodeCommand (w : CommandWord) : Instr :=
  if opField w = 0b00#2 then .nop (operandFields w)
  else if opField w = 0b01#2 then .enc (operandFields w)
  else if opField w = 0b10#2 then .start (operandFields w)
  else .stop (operandFields w)

/-! ### Format S (R66) -/

/-- The instruction a frame cell holding this symbol is. -/
def FrameSymbol.instr : FrameSymbol → Instr
  | .zero => .zero
  | .one => .one
  | .delimiter => .delimiter
  | .terminator => .terminator

/-- The code of a symbol (R66). -/
def FrameSymbol.code : FrameSymbol → BitVec 2
  | .zero => 0b00#2
  | .one => 0b01#2
  | .delimiter => 0b10#2
  | .terminator => 0b11#2

/-- The symbol of a code: all four codes are symbols (R66, R73). -/
def symbolOfCode (c : BitVec 2) : FrameSymbol :=
  if c = 0b00#2 then .zero
  else if c = 0b01#2 then .one
  else if c = 0b10#2 then .delimiter
  else .terminator

/-! ### Every form -/

/-- The instruction an encoding stands for, or the name of what is wrong with it. -/
def decode : Encoding → Except DecodeError Instr
  | .command w => .ok (decodeCommand w)
  | .symbol c => .ok (symbolOfCode c).instr
  | .tuPin b => if b = 1#1 then .ok .tu else .error .pinLow
  | .rstPin b => if b = 1#1 then .ok .reset else .error .pinLow

/-- How an event is presented: a command as its word, a pin event as level 1 of its pin (R75). -/
def Event.encoding : Event → Encoding
  | .reset => .rstPin 1#1
  | .tu => .tuPin 1#1
  | .cmd w => .command w

/-- The instruction an event runs: RESET, TU, or the command its word decodes to (R145, R146). -/
def Event.instr : Event → Instr
  | .reset => .reset
  | .tu => .tu
  | .cmd w => decodeCommand w

/-! ### The encoder -/

/-- Format C put together: `op`, `rv`, `id_len`, `id_chars`, `rate` from the top bit down (R61). -/
def encodeCommand (op : BitVec 2) (f : CommandFields) : CommandWord :=
  op ++ BitVec.ofBool f.rv ++ f.idLen ++ f.idChars ++ f.rate

/-- The encoding of an instruction, from the tables of R62, R66 and R75. -/
def encode : Instr → Encoding
  | .nop f => .command (encodeCommand 0b00#2 f)
  | .enc f => .command (encodeCommand 0b01#2 f)
  | .start f => .command (encodeCommand 0b10#2 f)
  | .stop f => .command (encodeCommand 0b11#2 f)
  | .zero => .symbol 0b00#2
  | .one => .symbol 0b01#2
  | .delimiter => .symbol 0b10#2
  | .terminator => .symbol 0b11#2
  | .tu => .tuPin 1#1
  | .reset => .rstPin 1#1

/-! ### The numbering of spec/opcode_table.json -/

/-- The encoding that a row's bits name. A command word is 103 bits (104 in whole bytes, the top one
0, R61), a symbol is 2 bits (8 in whole bytes), a pin is 1 bit. DESIGN CHOICE (notes/assumptions/2.md,
safe): the rows ONE, TU and RESET have the same bits in whole bytes, and a number alone cannot say
which pin it is the level of, so 8 bits are read as a symbol and 1 bit as the pin `tu`. -/
def tableEncoding (nbits w : Nat) : Except DecodeError Encoding :=
  if nbits = 103 ∨ nbits = 104 then
    if w < 2 ^ 103 then .ok (.command (BitVec.ofNat 103 w)) else .error .wordTooWide
  else if nbits = 2 ∨ nbits = 8 then
    if w < 4 then .ok (.symbol (BitVec.ofNat 2 w)) else .error .wordTooWide
  else if nbits = 1 then
    if w < 2 then .ok (.tuPin (BitVec.ofNat 1 w)) else .error .wordTooWide
  else .error .noSuchFormat

/-- The instruction the decoder reads from a row's bits, numbered as the table numbers them. -/
def decodeTableWord (nbits w : Nat) : Option Instr :=
  match tableEncoding nbits w with
  | .error _ => none
  | .ok e =>
    match decode e with
    | .ok i => some i
    | .error _ => none

end Sys2Proof
end

