-- ==== Sys2Proof/Machine/State.lean ====
section
/-! DEFINITION. The state of one VBES instance: the eight registers of spec/10_state.md rule R10, and
two fields of the model's own: the output of the last event, and the events the environment has yet
to apply. Also the response word, the reset state, and the reasons a step can stop. -/

namespace Sys2Proof.Machine

/-- The four errors of the taxonomy (R180 to R184). -/
inductive CommandError where
  /-- Malformed or missing key (R181). -/
  | invalidIdentifier
  /-- Value exceeds the bit width; no command reaches it (R182). -/
  | overflow
  /-- Non-positive tick interval (R183). -/
  | invalidRate
  /-- START while a session is active (R184). -/
  | alreadyRunning
  deriving DecidableEq, Repr

/-- The response codes the block has (R68). Codes 5, 6 and 7 are never produced and have no
constructor (spec/93_implementation_defined.md V4). -/
inductive ResponseCode where
  | ok
  | failed (e : CommandError)
  deriving DecidableEq, Repr

/-- The response to a command, format R in its fields (R67). -/
structure Response where
  code : ResponseCode
  frame : PackedFrame
  val : IdBits
  deriving DecidableEq, Repr

/-- The output of one event (R8): the symbol it emitted, if any, and its response, if any. -/
structure Output where
  sym : Option FrameSymbol
  rsp : Option Response
  deriving DecidableEq, Repr

/-- An event that neither emits nor responds. -/
abbrev Output.silent : Output := { sym := none, rsp := none }

/-- A frame: 41 symbols, index 0 emitted first (R11, R41). -/
abbrev Frame := Vector FrameSymbol 41

/-- The frame store when no session exists: every cell 0b00, the code of ZERO (R127, R211). -/
def idleFrame : Frame := Vector.replicate 41 .zero

/-- The state. The first eight fields are the registers of R10, each of the width the rule gives it;
CURSOR, which holds 0 to 40 only, is a `Fin 41`, so that an index outside the frame cannot be written
down (R56). The last two are the model's own. -/
structure State where
  /-- ACTIVE: a playback session exists (R13). -/
  active : Bool
  /-- FRAME[0..40]: the session's frame (R11). -/
  frame : Frame
  /-- CURSOR: index of the next symbol to emit, the block's program counter (R12). -/
  cursor : Fin 41
  /-- LOOPS: frames completely emitted in this session, modulo 2^16 (R17). -/
  loops : BitVec 16
  /-- RATE: the session's tick interval in time units (R15). -/
  rate : TimeUnits
  /-- TMR: time units still to elapse before the next tick, counting the one that fires it (R16). -/
  tmr : TimeUnits
  /-- SYMQ: the last symbol emitted since reset (R14). -/
  symq : FrameSymbol
  /-- SYMQV: some symbol has been emitted since reset (R14). -/
  symqv : Bool
  /-- The model's own: the output of the last event, the second component of R146's `step`. No
  meaning reads it. DESIGN CHOICE (notes/assumptions/1.md, safe). -/
  out : Output
  /-- The model's own: the events the environment applies next, in order; R146's event argument.
  DESIGN CHOICE (notes/assumptions/1.md, safe). -/
  pending : List Event
  deriving DecidableEq, Repr

/-- The state right after RESET (R211): no session, nothing emitted, SYMQ holding DELIMITER. Nothing
is pending, since what the environment does is its own affair (R226). -/
def State.reset : State :=
  { active := false
    frame := idleFrame
    cursor := 0
    loops := 0
    rate := 0
    tmr := 0
    symq := .delimiter
    symqv := false
    out := .silent
    pending := [] }

/-- The faults of the block: none. Nothing in the block hangs, crashes or becomes stuck, and a model
has no fault state (R192). The type has no constructor, so no step answers a fault. Safe. -/
inductive Fault where
  deriving DecidableEq, Repr

/-- The reasons the model answers without a next state. -/
inductive Refusal where
  /-- Raised by exec's arm of an instruction that has no meaning yet; no arm raises it. Safe. -/
  | notModelled (mnemonic : String)
  /-- Raised by TU in a state outside the invariants of R20. Such a state is not reachable and the spec
  gives it no behaviour (R56, R192; spec/93_implementation_defined.md V8). Safe. -/
  | illFormedState
  /-- Raised by a frame symbol executed where no tick would find it (R161: no symbol is emitted except by
  a tick). The step function never raises it. Safe. -/
  | symbolNotAtCursor
  deriving DecidableEq, Repr

/-- What a meaning answers. -/
abbrev Result := Host.Outcome State Fault Refusal

end Sys2Proof.Machine
end

