-- ==== Sys2Proof/Machine/Operands.lean ====
section
/-! DEFINITION. The operand forms: the identifier text of a command word (rules R43, R63), its
effective rate (rules R64, R121), and the numeric form of a response (rules R67, R68). -/

namespace Sys2Proof.Machine

/-- `IdRead(w, j)`: character slot `j` of a command word, bits `95-8j : 88-8j` (R8, R43, R63). -/
def idRead (w : CommandWord) (j : Fin 8) : Byte := w.extractLsb' (88 - 8 * j.val) 8

/-- Character slot `j` of the `id_chars` field, bits `63-8j : 56-8j` (R45, R63). -/
def slot (f : CommandFields) (j : Fin 8) : Byte := f.idChars.extractLsb' (56 - 8 * j.val) 8

/-- The text a command presents: its length, and the characters of it that the slots carry, first
character first. A length above 8 says that the text goes on past the slots (R63). -/
structure Text where
  len : Nat
  chars : List Byte
  deriving DecidableEq, Repr

/-- The text of the identifier operand (R43, R63): slots at or beyond `id_len` are no part of it. -/
def textOf (f : CommandFields) : Text :=
  { len := f.idLen.toNat
    chars := ((List.finRange 8).map (slot f)).take f.idLen.toNat }

/-- The effective rate of a command, a mathematical integer (R64, R121). -/
def effectiveRate (f : CommandFields) : Int :=
  if f.rv then f.rate.toInt else Config.defaultRate

/-- The number of a response code (R68). -/
def ResponseCode.bits : ResponseCode → BitVec 3
  | .ok => 0
  | .failed .invalidIdentifier => 1
  | .failed .overflow => 2
  | .failed .invalidRate => 3
  | .failed .alreadyRunning => 4

/-- Format R: `code` in bits 104:102, `frame` in 101:20, `val` in 19:0 (R67). -/
def Response.word (r : Response) : ResponseWord := r.code.bits ++ r.frame ++ r.val

end Sys2Proof.Machine
end

