-- ==== Sys2Proof/Machine/Encoder.lean ====
section
/-! DEFINITION. The Encoder: three pure functions composed in a line (spec/40_encoder.md). None reads
or writes state (rules R18, R104). -/

namespace Sys2Proof.Machine

/-! ### The identifier parser (R90 to R94) -/

/-- The value of a hexadecimal digit character, either case, or none (R69, R90, R91). -/
def hexval (c : Byte) : Option Nat :=
  if 0x30 ≤ c.toNat ∧ c.toNat ≤ 0x39 then some (c.toNat - 0x30)
  else if 0x41 ≤ c.toNat ∧ c.toNat ≤ 0x46 then some (c.toNat - 0x41 + 10)
  else if 0x61 ≤ c.toNat ∧ c.toNat ≤ 0x66 then some (c.toNat - 0x61 + 10)
  else none

/-- The value of five digits, the first the most significant (R44, R93). -/
def digitsValue (h0 h1 h2 h3 h4 : Nat) : Nat :=
  h0 * 65536 + h1 * 4096 + h2 * 256 + h3 * 16 + h4

/-- The five digit values of a five-character list, when every character is a digit (R93). -/
def parseFive : List Byte → Option Nat
  | [c0, c1, c2, c3, c4] =>
    match hexval c0, hexval c1, hexval c2, hexval c3, hexval c4 with
    | some h0, some h1, some h2, some h3, some h4 => some (digitsValue h0 h1 h2 h3 h4)
    | _, _, _, _, _ => none
  | _ => none

/-- The parser (R93): the length is checked first and alone (R92), then every character. -/
def parseIdentifier (t : Text) : Except CommandError Nat :=
  if t.len = Config.idLen then
    match parseFive t.chars with
    | some v => .ok v
    | none => .error .invalidIdentifier
  else .error .invalidIdentifier

/-! ### The base-16-to-binary converter (R95 to R97) -/

/-- The bit-vector of a natural number, which is refused from 2^20 on (R95). No command reaches the
refusal (R96). -/
def toBitVector (n : Nat) : Except CommandError IdBits :=
  if Config.overflowAt ≤ n then .error .overflow else .ok (BitVec.ofNat 20 n)

/-- The string form of a bit-vector, most significant bit first: true for '1' (R47, R70). -/
def bitString (v : IdBits) : List Bool :=
  (List.finRange 20).map fun i => v.getLsbD (19 - i.val)

/-! ### The symbol-frame formatter (R98 to R101) -/

/-- The data symbol of a bit (R98). -/
def symOfBit (b : Bool) : FrameSymbol := if b then .one else .zero

/-- Cell `k` of the frame of a bit-vector (R42, R99): a data symbol at every even index below 40, most
significant bit first, DELIMITER at every odd index, TERMINATOR at 40. -/
def frameCell (v : IdBits) (k : Fin 41) : FrameSymbol :=
  if k.val = 40 then .terminator
  else if k.val % 2 = 1 then .delimiter
  else symOfBit (v.getLsbD (19 - k.val / 2))

/-- The frame of a bit-vector (R99). -/
def toFrame (v : IdBits) : Frame := Vector.ofFn (frameCell v)

/-- Format F as a number: the first symbol in the two least significant bits (R71). -/
def packSymbols : List FrameSymbol → Nat
  | [] => 0
  | s :: rest => s.code.toNat + 4 * packSymbols rest

/-- `pack(F)`, format F (R71). -/
def packFrame (f : Frame) : PackedFrame := BitVec.ofNat 82 (packSymbols f.toList)

/-! ### The composition (R102) and its inverse (R105) -/

/-- The Encoder as a whole (R102): the errors are raised in the order of the stages. -/
def encodeText (t : Text) : Except CommandError (IdBits × Frame) :=
  match parseIdentifier t with
  | .error e => .error e
  | .ok n =>
    match toBitVector n with
    | .error e => .error e
    | .ok v => .ok (v, toFrame v)

/-- The sum of R105: bit `19-i` is set exactly where cell `2i` holds ONE. -/
def sumOnes (f : Frame) : List (Fin 20) → Nat
  | [] => 0
  | i :: rest =>
    (if f[2 * i.val]'(by omega) = .one then 2 ^ (19 - i.val) else 0) + sumOnes f rest

/-- The value a frame determines (R105). -/
def frameValue (f : Frame) : IdBits := BitVec.ofNat 20 (sumOnes f (List.finRange 20))

/-- The frame is one the Encoder makes (R20 item 5). -/
def isEncoderFrame (f : Frame) : Bool := f == toFrame (frameValue f)

end Sys2Proof.Machine
end

