-- ==== Sys2Proof/Machine/Flags.lean ====
section
/-! DEFINITION. The block's two flags, ACTIVE and SYMQV, and every test made on them. No arithmetic
sets a flag (rules R27, R147). ACTIVE is tested by START, STOP and TU (R13); SYMQV by no command
(R14). Here also stands the well-formedness of a state, rule R20, whose clauses are conditions on the
two flags. -/

namespace Sys2Proof.Machine

/-- The two checks START makes on the session and the rate, in the order of R122 and R186:
AlreadyRunning (R123) before InvalidRate (R124). -/
def startCheck (active : Bool) (r : Int) : Except CommandError Unit :=
  if active then .error .alreadyRunning
  else if r ≤ 0 then .error .invalidRate
  else .ok ()

/-- Item 1 of R20: a state with ACTIVE = 0 has every session register at its idle value. -/
abbrev State.IdleCanonical (s : State) : Prop :=
  s.active = false → s.frame = idleFrame ∧ s.cursor = 0 ∧ s.loops = 0 ∧ s.rate = 0 ∧ s.tmr = 0

/-- Item 3 of R20: 1 ≤ RATE ≤ 2^31 - 1 (the upper bound is the register's width) and 1 ≤ TMR ≤ RATE. -/
abbrev State.TimerInRange (s : State) : Prop :=
  s.active = true → 1 ≤ s.rate.toNat ∧ 1 ≤ s.tmr.toNat ∧ s.tmr.toNat ≤ s.rate.toNat

/-- Item 4 of R20: before the first emission SYMQ holds its reset value. -/
abbrev State.HeldOutputOk (s : State) : Prop :=
  s.symqv = false → s.symq = .delimiter

/-- Item 5 of R20: the stored frame of a session is an encoder frame. -/
abbrev State.FrameFromEncoder (s : State) : Prop :=
  s.active = true → isEncoderFrame s.frame = true

/-- The well-formed states: items 1, 3, 4 and 5 of R20. Item 2 holds by the type of the cursor; item 6
is about the events since the START, not about one state. -/
abbrev State.WellFormed (s : State) : Prop :=
  s.IdleCanonical ∧ s.TimerInRange ∧ s.HeldOutputOk ∧ s.FrameFromEncoder

end Sys2Proof.Machine
end

