-- ==== Sys2Proof/Machine/Ops.lean ====
section
/-! DEFINITION. The named operations the meanings are made of: answering a command, raising an error
(the block's one form of exception), reading and writing the frame store, emitting a symbol, moving
the cursor, the tick, and the beginning and end of a session. -/

namespace Sys2Proof.Machine

/-! ### Outputs -/

/-- The event neither emits nor responds. -/
def State.quiet (s : State) : State := { s with out := .silent }

/-- `respond(code, val, frame)`: complete a command with a response (R8, R67). -/
def State.respond (s : State) (code : ResponseCode) (val : IdBits) (frame : PackedFrame) : State :=
  { s with out := { sym := none, rsp := some { code := code, frame := frame, val := val } } }

/-- `respond(OK)`: success with no payload (R8). -/
def State.respondOk (s : State) : State := s.respond .ok 0 0

/-- Taking an error, the block's only exception (R180, R188): the command ends here with the error's
code and a zero payload. Nothing is saved, no register is written, no mode changes, no symbol is
emitted. There is no return from it: the next event is taken as if the command had not been issued
(R189). -/
def raise (e : CommandError) (s : State) : Result := .next (s.respond (.failed e) 0 0)

/-! ### The frame store (R41) -/

/-- `MemRead(k, 1)`: cell `k` of the frame store. -/
def State.readCell (s : State) (k : Fin 41) : FrameSymbol := s.frame[k]

/-- `MemRead(0, 41)`: the whole frame store. -/
def State.readFrame (s : State) : Frame := s.frame

/-- `MemWrite(0, 41, F)`: the whole frame store at once, the only way it is written (R11). -/
def State.writeFrame (s : State) (f : Frame) : State := { s with frame := f }

/-! ### Emission and the cursor -/

/-- `emit(s)`: present a symbol for this event, hold it in SYMQ, set SYMQV (R160). -/
def State.emit (s : State) (sym : FrameSymbol) : State :=
  { s with symq := sym, symqv := true, out := { sym := some sym, rsp := none } }

/-- The cursor after a tick (R131): from 40 it wraps to 0 and counts one loop modulo 2^16 (R136), else
it moves to the next index. -/
def State.advanceCursor (s : State) : State :=
  { s with
    cursor := if s.cursor = 40 then 0 else s.cursor + 1
    loops := if s.cursor = 40 then s.loops + 1 else s.loops }

/-- What a tick does with the symbol it has read (R131): emit it, then advance the cursor. -/
def State.tick (s : State) (sym : FrameSymbol) : State := (s.emit sym).advanceCursor

/-- A tick falls in this state and finds `sym` at the cursor: the state is well-formed, a session is
active, its timer fires (R130: TMR = 1), and the cell at CURSOR holds `sym` (R131). -/
abbrev State.TickFinds (s : State) (sym : FrameSymbol) : Prop :=
  s.WellFormed ∧ s.active = true ∧ s.tmr = 1 ∧ s.readCell s.cursor = sym

/-- The execution of a frame symbol by the tick that finds it (R131, R162 to R165). Where no tick finds
it the spec gives it no effect (R161), and the model refuses. -/
def execSymbol (sym : FrameSymbol) (s : State) : Result :=
  if s.TickFinds sym then .next (s.tick sym) else .refused .symbolNotAtCursor

/-- The reload of the timer at the end of a tick: TMR <- RATE (R130). -/
def State.reloadTimer (s : State) : State := { s with tmr := s.rate }

/-- Continue after a next state; a stop stays a stop. -/
def andThen (r : Result) (f : State → State) : Result :=
  match r with
  | .next t => .next (f t)
  | .fault e => .fault e
  | .refused e => .refused e

/-! ### The session (R120) -/

/-- What a successful START writes (R122): ACTIVE, FRAME, CURSOR, LOOPS, RATE and TMR. `r` is the
effective rate, known to be in 1 .. 2^31 - 1. SYMQ and SYMQV are not written. -/
def State.beginSession (s : State) (f : Frame) (r : Int) : State :=
  { s.writeFrame f with
    active := true
    cursor := 0
    loops := 0
    rate := BitVec.ofInt 31 r
    tmr := BitVec.ofInt 31 r }

/-- What STOP writes while a session is active (R127): the six session registers, to the idle values.
SYMQ and SYMQV are not written. -/
def State.endSession (s : State) : State :=
  { s.writeFrame idleFrame with
    active := false
    cursor := 0
    loops := 0
    rate := 0
    tmr := 0 }

end Sys2Proof.Machine
end

