-- ==== Sys2Proof/Machine/Commands.lean ====
section
/-! DEFINITION. The meanings of the four host commands (spec/40_encoder.md rule R103,
spec/41_sequencer.md rules R122 to R129). -/

namespace Sys2Proof.Machine

/-- NOP (R129): respond OK; no state is written and every field is ignored (R65). -/
def execNop (s : State) : Result := .next s.respondOk

/-- ENC (R103): encode the text and respond with the value and the packed frame; no register is
written, in success or in failure. -/
def execEnc (f : CommandFields) (s : State) : Result :=
  match encodeText (textOf f) with
  | .error e => raise e s
  | .ok (v, frame) => .next (s.respond .ok v (packFrame frame))

/-- START (R122): encode, then check the session and the rate, then begin the session. The first check
that fails decides the response (R186), and a failing START writes no register (R180). -/
def execStart (f : CommandFields) (s : State) : Result :=
  match encodeText (textOf f) with
  | .error e => raise e s
  | .ok (_, frame) =>
    match startCheck s.active (effectiveRate f) with
    | .error e => raise e s
    | .ok () => .next (s.beginSession frame (effectiveRate f)).respondOk

/-- STOP (R127): end the session if there is one, and respond OK either way. -/
def execStop (s : State) : Result :=
  if s.active then .next s.endSession.respondOk else .next s.respondOk

end Sys2Proof.Machine
end

