-- ==== Sys2Proof/Machine/Symbols.lean ====
section
/-! DEFINITION. The meanings of the four frame symbols, which a session executes one per tick out of
the frame store (spec/42_symbol_output.md rules R162 to R165). -/

namespace Sys2Proof.Machine

/-- ZERO (R162). -/
def execZero (s : State) : Result := execSymbol .zero s

/-- ONE (R163). -/
def execOne (s : State) : Result := execSymbol .one s

/-- DELIMITER (R164). -/
def execDelimiter (s : State) : Result := execSymbol .delimiter s

/-- TERMINATOR (R165). -/
def execTerminator (s : State) : Result := execSymbol .terminator s

/-- The block's fetch and execution on a tick (R40, R131): the symbol at the cursor is read from the
frame store and executed. -/
def execCell (s : State) : Result :=
  match s.readCell s.cursor with
  | .zero => execZero s
  | .one => execOne s
  | .delimiter => execDelimiter s
  | .terminator => execTerminator s

end Sys2Proof.Machine
end

