-- ==== Sys2Proof/Machine/Pins.lean ====
section
/-! DEFINITION. The meanings of the two pin events (spec/41_sequencer.md rules R130 and R131,
spec/70_reset_and_hazards.md rules R210 and R211). -/

namespace Sys2Proof.Machine

/-- TU (R130): idle, nothing; TMR > 1, one time unit less; TMR = 1, the tick and the reload of the
timer. A state outside the invariants of R20 is refused (R56, R192; V8 of
spec/93_implementation_defined.md), so the last case is exactly TMR = 1. -/
def execTu (s : State) : Result :=
  if ¬ s.WellFormed then .refused .illFormedState
  else if s.active = false then .next s.quiet
  else if 1 < s.tmr.toNat then .next { s.quiet with tmr := s.tmr - 1 }
  else andThen (execCell s) State.reloadTimer

/-- RESET (R210, R211): every register takes its reset value, whatever the state was; no response and
no emission. The events the environment has yet to apply are not the block's to change. -/
def execReset (s : State) : Result := .next { State.reset with pending := s.pending }

end Sys2Proof.Machine
end

