-- ==== Sys2Proof/Machine/Dispatch.lean ====
section
/-! DEFINITION. The meaning of every instruction: one arm for each constructor of `Instr`
(spec/41_sequencer.md rules R145 and R146). -/

namespace Sys2Proof.Machine

def exec (i : Instr) (s : State) : Host.Outcome State Fault Refusal :=
  match i with
  | .nop _ => Sys2Proof.Machine.execNop s
  | .enc f => Sys2Proof.Machine.execEnc f s
  | .start f => Sys2Proof.Machine.execStart f s
  | .stop _ => Sys2Proof.Machine.execStop s
  | .zero => Sys2Proof.Machine.execZero s
  | .one => Sys2Proof.Machine.execOne s
  | .delimiter => Sys2Proof.Machine.execDelimiter s
  | .terminator => Sys2Proof.Machine.execTerminator s
  | .tu => Sys2Proof.Machine.execTu s
  | .reset => Sys2Proof.Machine.execReset s

end Sys2Proof.Machine
end

