-- ==== Sys2Proof/Machine/Fetch.lean ====
section
/-! DEFINITION. Where the block's next instruction comes from: the next event the environment applies
(rules R23, R52) and, on a tick, the frame cell at the cursor (R40). -/

namespace Sys2Proof.Machine

/-- The next event and the state without it; none when the environment applies nothing. -/
def takeEvent (s : State) : Option (Event × State) :=
  match s.pending with
  | [] => none
  | e :: rest => some (e, { s with pending := rest })

/-- Put an event first among those the environment applies. -/
def State.present (s : State) (e : Event) : State := { s with pending := e :: s.pending }

/-- An identifier value whose frame holds `sym` at `cueCursor sym`. -/
def cueValue : FrameSymbol → IdBits
  | .zero => 0x00000#20
  | .one => 0xFFFFF#20
  | .delimiter => 0x00000#20
  | .terminator => 0x00000#20

/-- An index at which the frame of `cueValue sym` holds `sym` (R42). -/
def cueCursor : FrameSymbol → Fin 41
  | .zero => 0
  | .one => 0
  | .delimiter => 1
  | .terminator => 40

/-- All it takes for the very next step to execute a frame symbol: a session whose frame holds it at
the cursor, the timer about to fire, and one TU event to fire it. -/
def State.cueSymbol (s : State) (sym : FrameSymbol) : State :=
  { s with
    active := true
    frame := toFrame (cueValue sym)
    cursor := cueCursor sym
    rate := 1
    tmr := 1
    pending := .tu :: s.pending }

/-- Place what an opcode-table word names where the next step takes its instruction from: a command
word on the command port, a symbol under the cursor, a pin at its level. A pin at level 0 and a number
that is no word place nothing. -/
def State.placeWord (s : State) (nbits w : Nat) : State :=
  match tableEncoding nbits w with
  | .ok (.command c) => s.present (.cmd c)
  | .ok (.symbol c) => s.cueSymbol (symbolOfCode c)
  | .ok (.tuPin b) => if b = 1#1 then s.present .tu else s
  | .ok (.rstPin b) => if b = 1#1 then s.present .reset else s
  | .error _ => s

end Sys2Proof.Machine
end

