-- ==== Sys2Proof/Machine/Step.lean ====
section
/-! DEFINITION. One step of the machine (spec/41_sequencer.md rule R146): take the next event, run its
instruction. With no event there is nothing to take: the state stays and nothing is put out (T64 of
spec/95_test_vectors.md). -/

namespace Sys2Proof.Machine

/-- The step: the event argument of R146 is the first pending event, and the output component of its
result is the field `out`. -/
def step (s : State) : Host.Outcome State Fault Refusal :=
  match takeEvent s with
  | none => .next s.quiet
  | some (e, t) => exec e.instr t

/-- The state whose very next step fetches and runs the instruction of an opcode-table word. -/
def State.withFetchWord (s : State) (nbits w : Nat) : State := s.placeWord nbits w

end Sys2Proof.Machine
end

