-- ==== Sys2Proof/Machine/Run.lean ====
section
/-! DEFINITION. Runs of the block over a sequence of events (spec/41_sequencer.md rule R146,
spec/70_reset_and_hazards.md rule R225), their traces (spec/00_scope.md rule R8), and several instances
side by side (spec/60_exceptions.md rule R196). -/

namespace Sys2Proof.Machine

/-- One event applied to a state: `step(s, e)` of R146, its output in the field `out`. -/
def applyEvent (e : Event) (s : State) : Result := exec e.instr s

/-- The events applied in order (R52), stopping at the first that has no next state. -/
def runEvents : List Event → State → Result
  | [], s => .next s
  | e :: rest, s =>
    match applyEvent e s with
    | .next t => runEvents rest t
    | .fault r => .fault r
    | .refused r => .refused r

/-- The trace: the outputs of the events, one for each (R8). -/
def traceEvents : List Event → State → List Output
  | [], _ => []
  | e :: rest, s =>
    match applyEvent e s with
    | .next t => t.out :: traceEvents rest t
    | .fault _ => []
    | .refused _ => []

/-- The symbols emitted along a run, in order (R161). -/
def emissions (evs : List Event) (s : State) : List FrameSymbol :=
  (traceEvents evs s).filterMap Output.sym

/-- The responses along a run, one per command, in command order (R171). -/
def responses (evs : List Event) (s : State) : List Response :=
  (traceEvents evs s).filterMap Output.rsp

/-- How many time units the events hold. -/
def countTu (evs : List Event) : Nat := evs.countP (fun e => e == Event.tu)

/-- The event leaves a running session alone: it is neither RESET nor a STOP (R120, R134: only these
end a session). -/
def keepsSession (e : Event) : Bool :=
  match e.instr with
  | .stop _ => false
  | .reset => false
  | _ => true

/-- One event applied to instance `k` of several (R196): each has its own state and they share
nothing. No instance `k`, no event. -/
def applyAt (k : Nat) (e : Event) (sys : List State) :
    Host.Outcome (List State) Fault Refusal :=
  match sys[k]? with
  | none => .next sys
  | some s =>
    match applyEvent e s with
    | .next t => .next (sys.set k t)
    | .fault r => .fault r
    | .refused r => .refused r

end Sys2Proof.Machine
end

