-- ==== Sys2Proof/Machine/Ports.lean ====
section
/-! DEFINITION. The ports (spec/10_state.md rules R24 to R26) and the colour table
(spec/42_symbol_output.md rules R167 and R168). -/

namespace Sys2Proof.Machine

/-- COLOR: the colour table (R167). -/
def color : FrameSymbol → Rgb
  | .zero => 0x0000FF#24
  | .one => 0x00FF00#24
  | .delimiter => 0x000000#24
  | .terminator => 0xFF0000#24

/-- The output ports (R25). `rsp_valid` is `rsp.isSome`, and `rsp_word` has a value only then: the
spec gives none for a cycle with no response (notes/assumptions/3.md). -/
structure Ports where
  /-- `rsp_valid` and `rsp_word`. -/
  rsp : Option ResponseWord
  /-- `sym_valid`. -/
  symValid : Bool
  /-- `sym`: the emitted symbol's code, 0b00 when `sym_valid` = 0. -/
  sym : BitVec 2
  /-- `sym_q`. -/
  symQ : BitVec 2
  /-- `sym_qv`. -/
  symQv : Bool
  /-- `rgb`. -/
  rgb : Rgb
  /-- `active`. -/
  active : Bool
  /-- `cursor`. -/
  cursor : BitVec 6
  /-- `loops`. -/
  loops : BitVec 16
  deriving DecidableEq, Repr

/-- The code on `sym`: that of the emitted symbol, 0b00 without one (R160). -/
def symPort : Option FrameSymbol → BitVec 2
  | some s => s.code
  | none => 0b00#2

/-- The output ports as an event leaves them (R25): the event outputs of that event, and the level
outputs of the state after it. FRAME, RATE and TMR have no port (R22). -/
def State.ports (s : State) : Ports :=
  { rsp := s.out.rsp.map Response.word
    symValid := s.out.sym.isSome
    sym := symPort s.out.sym
    symQ := s.symq.code
    symQv := s.symqv
    rgb := color s.symq
    active := s.active
    cursor := BitVec.ofNat 6 s.cursor.val
    loops := s.loops }

/-- The observation of a run (R171): the ports after each event. -/
def observe : List Event → State → List Ports
  | [], _ => []
  | e :: rest, s =>
    match applyEvent e s with
    | .next t => t.ports :: observe rest t
    | .fault _ => []
    | .refused _ => []

/-- The input pins at one clock edge (R24). `cmd_word` is sampled only when `cmd_valid` is 1. -/
structure Edge where
  rst : Bool
  tu : Bool
  cmdValid : Bool
  cmdWord : CommandWord
  deriving DecidableEq, Repr

/-- The events the block takes at an edge, in order (R26, R210): RESET alone; otherwise first the TU,
then the command. -/
def Edge.events (e : Edge) : List Event :=
  if e.rst then [.reset]
  else (if e.tu then [.tu] else []) ++ (if e.cmdValid then [.cmd e.cmdWord] else [])

/-- The outputs of the events of one edge on the wires together: an edge carries at most one emission
and at most one response (R26). -/
def Output.merge (a b : Output) : Output :=
  { sym := a.sym.or b.sym
    rsp := a.rsp.or b.rsp }

/-- One clock edge (R26): its events in order, their outputs all valid in its cycle (R25). -/
def applyEdge (e : Edge) (s : State) : Result :=
  andThen (runEvents e.events s.quiet) fun t =>
    { t with out := (traceEvents e.events s.quiet).foldl Output.merge .silent }

end Sys2Proof.Machine
end

