-- ==== Sys2Proof/Machine/Mux.lean ====
section
/-! DEFINITION. The symbol output mux (spec/41_sequencer.md rule R137) and the implementation that
spec/10_state.md rule R11 allows: a block that keeps the 20-bit bit-vector instead of the 41 cells and
makes each symbol on the fly. It is a second design beside the model, not part of `step`. -/

namespace Sys2Proof.Machine

/-- The symbol a tick emits, from the bit-vector and the cursor (R137). -/
def muxSymbol (v : IdBits) (c : Fin 41) : FrameSymbol :=
  if c.val = 40 then .terminator
  else if c.val % 2 = 1 then .delimiter
  else symOfBit (v.getLsbD (19 - c.val / 2))

/-- The same in gates (R137): `s[1]` = (c = 40) or `c[0]`, `s[0]` = (c = 40) or (not `c[0]` and
`BV[19 - c[5:1]]`), the bit of BV being selected only below 40. -/
def muxCode (v : IdBits) (c : BitVec 6) : BitVec 2 :=
  let last := c == 40#6
  let odd := c.getLsbD 0
  let data := !odd && v.getLsbD (19 - (c.extractLsb' 1 5).toNat)
  BitVec.ofBool (last || odd) ++ BitVec.ofBool (last || data)

/-- The registers of the mux design: those of R10 with the bit-vector in the frame's place. -/
structure MuxState where
  active : Bool
  bv : IdBits
  cursor : Fin 41
  loops : BitVec 16
  rate : TimeUnits
  tmr : TimeUnits
  symq : FrameSymbol
  symqv : Bool
  out : Output
  deriving DecidableEq, Repr

/-- The mux design after RESET (R211). -/
def muxReset : MuxState :=
  { active := false, bv := 0, cursor := 0, loops := 0, rate := 0, tmr := 0
    symq := .delimiter, symqv := false, out := .silent }

/-- A response of the mux design. -/
def muxRespond (m : MuxState) (code : ResponseCode) (val : IdBits) (frame : PackedFrame) : MuxState :=
  { m with out := { sym := none, rsp := some { code := code, frame := frame, val := val } } }

/-- START of the mux design (R122), which keeps the value and drops the frame. -/
def muxStart (f : CommandFields) (m : MuxState) : MuxState :=
  match encodeText (textOf f) with
  | .error e => muxRespond m (.failed e) 0 0
  | .ok (v, _) =>
    match startCheck m.active (effectiveRate f) with
    | .error e => muxRespond m (.failed e) 0 0
    | .ok () =>
      muxRespond
        { m with
          active := true
          bv := v
          cursor := 0
          loops := 0
          rate := BitVec.ofInt 31 (effectiveRate f)
          tmr := BitVec.ofInt 31 (effectiveRate f) }
        .ok 0 0

/-- STOP of the mux design (R127). -/
def muxStop (m : MuxState) : MuxState :=
  if m.active then
    muxRespond { m with active := false, bv := 0, cursor := 0, loops := 0, rate := 0, tmr := 0 } .ok 0 0
  else muxRespond m .ok 0 0

/-- ENC of the mux design (R103). -/
def muxEnc (f : CommandFields) (m : MuxState) : MuxState :=
  match encodeText (textOf f) with
  | .error e => muxRespond m (.failed e) 0 0
  | .ok (v, frame) => muxRespond m .ok v (packFrame frame)

/-- The tick of the mux design (R131, R137). -/
def muxTick (m : MuxState) : MuxState :=
  let sym := muxSymbol m.bv m.cursor
  { m with
    cursor := if m.cursor = 40 then 0 else m.cursor + 1
    loops := if m.cursor = 40 then m.loops + 1 else m.loops
    tmr := m.rate
    symq := sym
    symqv := true
    out := { sym := some sym, rsp := none } }

/-- TU of the mux design (R130). -/
def muxTu (m : MuxState) : MuxState :=
  if m.active = false then { m with out := .silent }
  else if 1 < m.tmr.toNat then { m with tmr := m.tmr - 1, out := .silent }
  else muxTick m

/-- One event of the mux design (R145, R146). A frame symbol is no event and changes nothing. -/
def muxExec (i : Instr) (m : MuxState) : MuxState :=
  match i with
  | .nop _ => muxRespond m .ok 0 0
  | .enc f => muxEnc f m
  | .start f => muxStart f m
  | .stop _ => muxStop m
  | .zero => m
  | .one => m
  | .delimiter => m
  | .terminator => m
  | .tu => muxTu m
  | .reset => muxReset

/-- The output ports of the mux design (R25). -/
def MuxState.ports (m : MuxState) : Ports :=
  { rsp := m.out.rsp.map Response.word
    symValid := m.out.sym.isSome
    sym := symPort m.out.sym
    symQ := m.symq.code
    symQv := m.symqv
    rgb := color m.symq
    active := m.active
    cursor := BitVec.ofNat 6 m.cursor.val
    loops := m.loops }

/-- The observation of a run of the mux design (R171). -/
def muxObserve : List Event → MuxState → List Ports
  | [], _ => []
  | e :: rest, m => (muxExec e.instr m).ports :: muxObserve rest (muxExec e.instr m)

end Sys2Proof.Machine
end

