-- ==== Sys2Proof/Machine/Script.lean ====
section
/-! DEFINITION. The script notation, the block's assembly language (spec/30_encoding.md rules R77 and
R78): its lines, their reading from ASCII text, the canonical words the assembler produces, and the
expansion of the pseudo-instructions. -/

namespace Sys2Proof.Machine

/-- One line of a script. `len` is the number of a `len=<n>` where one is written. -/
inductive ScriptLine where
  /-- Nothing but blanks and a comment. -/
  | empty
  | reset
  | tu
  | nop
  | stop
  | enc (len : Option Nat) (text : List Byte)
  | start (len : Option Nat) (text : List Byte) (rate : Option Int)
  /-- `tu * N`. -/
  | tuTimes (n : Nat)
  | tick
  /-- `tick * N`. -/
  | tickTimes (n : Nat)
  | restart (text : List Byte) (rate : Option Int)
  deriving DecidableEq, Repr

/-! ### The assembler (R77) -/

/-- The literal's bytes in the slots from slot 0 on, the other slots zero (R65, R77). -/
def packText : Nat → List Byte → Nat
  | 0, _ => 0
  | _ + 1, [] => 0
  | n + 1, c :: rest => c.toNat * 256 ^ n + packText n rest

/-- The limits of R77: a literal of at most 8 characters, a length of at most 15, a rate of 32 bits. -/
def operandsLegal (len : Option Nat) (text : List Byte) (rate : Option Int) : Bool :=
  text.length ≤ 8 && (len.getD text.length ≤ 15) &&
    (match rate with
      | none => true
      | some r => -2147483648 ≤ r && r ≤ 2147483647)

/-- The operand fields the assembler writes (R65, R77): `rv` = 0 and `rate` = 0 where no rate is
written. -/
def assembleFields (len : Option Nat) (text : List Byte) (rate : Option Int) : CommandFields :=
  { rv := rate.isSome
    idLen := BitVec.ofNat 4 (len.getD text.length)
    idChars := BitVec.ofNat 64 (packText 8 text)
    rate := BitVec.ofInt 32 (rate.getD 0) }

/-- The operand of NOP and STOP: every ignored field zero (R65). -/
def blankFields : CommandFields := assembleFields none [] none

/-- The word of a command line (R62, R77). -/
def commandEvent (op : BitVec 2) (f : CommandFields) : Event := .cmd (encodeCommand op f)

/-- The events a line stands for, in the state it is met in (R77, R78); none where it is not defined: a
`tick` needs a session, and an operand must be within the limits of R77. -/
def expandLine (s : State) : ScriptLine → Option (List Event)
  | .empty => some []
  | .reset => some [.reset]
  | .tu => some [.tu]
  | .nop => some [commandEvent 0b00#2 blankFields]
  | .stop => some [commandEvent 0b11#2 blankFields]
  | .enc len text =>
    if operandsLegal len text none then
      some [commandEvent 0b01#2 (assembleFields len text none)]
    else none
  | .start len text rate =>
    if operandsLegal len text rate then
      some [commandEvent 0b10#2 (assembleFields len text rate)]
    else none
  | .tuTimes n => some (List.replicate n .tu)
  | .tick => if s.active then some (List.replicate s.tmr.toNat .tu) else none
  | .tickTimes n =>
    if s.active then
      some (List.replicate (if n = 0 then 0 else s.tmr.toNat + (n - 1) * s.rate.toNat) .tu)
    else none
  | .restart text rate =>
    if operandsLegal none text rate then
      some [commandEvent 0b11#2 blankFields, commandEvent 0b10#2 (assembleFields none text rate)]
    else none

/-- The lines executed in order (R77), each expanded in the state the lines before it left; none where
a line is not defined or an event does not complete. -/
def runScript : List ScriptLine → State → Option State
  | [], s => some s
  | l :: rest, s =>
    match expandLine s l with
    | none => none
    | some evs =>
      match runEvents evs s with
      | .next t => runScript rest t
      | .fault _ => none
      | .refused _ => none

/-! ### Reading a line (R77)

The text of a line is ASCII bytes. A parser answers what it read and the bytes after it. -/

/-- The bytes of a keyword. -/
def asciiBytes (cs : List Char) : List Byte := cs.map fun c => BitVec.ofNat 8 c.toNat

/-- Drop blanks: space and tab. -/
def skipBlanks : List Byte → List Byte
  | [] => []
  | c :: rest => if c = 0x20#8 ∨ c = 0x09#8 then skipBlanks rest else c :: rest

/-- Read exactly these bytes. -/
def readExactly : List Byte → List Byte → Option (List Byte)
  | [], rest => some rest
  | _ :: _, [] => none
  | k :: ks, c :: rest => if k = c then readExactly ks rest else none

/-- The value of a decimal digit. -/
def decimalDigit (c : Byte) : Option Nat :=
  if 0x30 ≤ c.toNat ∧ c.toNat ≤ 0x39 then some (c.toNat - 0x30) else none

/-- Read the digits that continue a decimal number whose value so far is `acc`. -/
def readDigits (acc : Nat) : List Byte → Nat × List Byte
  | [] => (acc, [])
  | c :: rest =>
    match decimalDigit c with
    | some d => readDigits (10 * acc + d) rest
    | none => (acc, c :: rest)

/-- Read a decimal number of at least one digit. -/
def readNat : List Byte → Option (Nat × List Byte)
  | [] => none
  | c :: rest => (decimalDigit c).map fun d => readDigits d rest

/-- Read a decimal integer with an optional minus sign. -/
def readInt : List Byte → Option (Int × List Byte)
  | 0x2D#8 :: rest => (readNat rest).map fun p => (-(p.1 : Int), p.2)
  | bs => (readNat bs).map fun p => ((p.1 : Int), p.2)

/-- A character a text literal may hold as it stands: printable ASCII other than the double quote
(0x22) and the backslash (0x5C). -/
def plainChar (c : Byte) : Bool :=
  0x20 ≤ c.toNat && c.toNat ≤ 0x7E && c != 0x22#8 && c != 0x5C#8

/-- Read the rest of a text literal up to its closing quote. A backslash, an `x` and two hexadecimal
digits stand for one byte. -/
def readLiteral : List Byte → Option (List Byte × List Byte)
  | [] => none
  | 0x22#8 :: rest => some ([], rest)
  | 0x5C#8 :: 0x78#8 :: a :: b :: rest =>
    match hexval a, hexval b with
    | some x, some y =>
      (readLiteral rest).map fun p => (BitVec.ofNat 8 (16 * x + y) :: p.1, p.2)
    | _, _ => none
  | c :: rest =>
    if plainChar c then (readLiteral rest).map fun p => (c :: p.1, p.2) else none

/-- Read a text literal: its opening quote and the rest. -/
def readText (bs : List Byte) : Option (List Byte × List Byte) :=
  match skipBlanks bs with
  | 0x22#8 :: rest => readLiteral rest
  | _ => none

/-- Read `len=<n>` where it is written. -/
def readLen (bs : List Byte) : Option (Option Nat × List Byte) :=
  match readExactly (asciiBytes ['l', 'e', 'n', '=']) (skipBlanks bs) with
  | none => some (none, bs)
  | some rest => (readNat rest).map fun p => (some p.1, p.2)

/-- Read `, <int>` where it is written. -/
def readRate (bs : List Byte) : Option (Option Int × List Byte) :=
  match skipBlanks bs with
  | 0x2C#8 :: rest => (readInt (skipBlanks rest)).map fun p => (some p.1, p.2)
  | _ => some (none, bs)

/-- Nothing more stands on the line but blanks and a comment. -/
def atLineEnd (bs : List Byte) : Bool :=
  match skipBlanks bs with
  | [] => true
  | c :: _ => c == 0x3B#8

/-- Read `* N` where it is written, to the end of the line. -/
def readTimes (once : ScriptLine) (times : Nat → ScriptLine) (bs : List Byte) : Option ScriptLine :=
  match skipBlanks bs with
  | 0x2A#8 :: rest =>
    match readNat (skipBlanks rest) with
    | some (n, after) => if atLineEnd after then some (times n) else none
    | none => none
  | _ => if atLineEnd bs then some once else none

/-- A line without operands. -/
def readBare (l : ScriptLine) (bs : List Byte) : Option ScriptLine :=
  if atLineEnd bs then some l else none

/-- Read the operands of `enc`. -/
def readEnc (bs : List Byte) : Option ScriptLine :=
  match readLen bs with
  | none => none
  | some (len, afterLen) =>
    match readText afterLen with
    | none => none
    | some (text, after) => if atLineEnd after then some (.enc len text) else none

/-- Read the operands of `start`, or of `restart`, which takes no length. -/
def readStart (make : Option Nat → List Byte → Option Int → Option ScriptLine) (bs : List Byte) :
    Option ScriptLine :=
  match readLen bs with
  | none => none
  | some (len, afterLen) =>
    match readText afterLen with
    | none => none
    | some (text, afterText) =>
      match readRate afterText with
      | none => none
      | some (rate, after) => if atLineEnd after then make len text rate else none

/-- A statement keyword and how its operands are read. -/
def readAfter (keyword : List Char) (read : List Byte → Option ScriptLine) (bs : List Byte) :
    Option ScriptLine :=
  match readExactly (asciiBytes keyword) (skipBlanks bs) with
  | none => none
  | some rest => read rest

/-- Read one line of a script (R77, R78). -/
def readLine (bs : List Byte) : Option ScriptLine :=
  (readBare .empty bs).or <|
  (readAfter ['r', 'e', 's', 'e', 't'] (readBare .reset) bs).or <|
  (readAfter ['t', 'u'] (readTimes .tu .tuTimes) bs).or <|
  (readAfter ['n', 'o', 'p'] (readBare .nop) bs).or <|
  (readAfter ['s', 't', 'o', 'p'] (readBare .stop) bs).or <|
  (readAfter ['e', 'n', 'c'] readEnc bs).or <|
  (readAfter ['s', 't', 'a', 'r', 't']
    (readStart fun len text rate => some (.start len text rate)) bs).or <|
  (readAfter ['t', 'i', 'c', 'k'] (readTimes .tick .tickTimes) bs).or <|
  (readAfter ['r', 'e', 's', 't', 'a', 'r', 't']
    (readStart fun len text rate =>
      match len with
      | none => some (.restart text rate)
      | some _ => none) bs)

/-- The lines of a text, separated by the newline byte 0x0A. -/
def splitLines : List Byte → List (List Byte)
  | [] => [[]]
  | c :: rest =>
    if c = 0x0A#8 then [] :: splitLines rest
    else
      match splitLines rest with
      | [] => [[c]]
      | line :: more => (c :: line) :: more

/-- Read lines, one by one; none where one of them is no line of a script. -/
def readLines : List (List Byte) → Option (List ScriptLine)
  | [] => some []
  | line :: more =>
    match readLine line, readLines more with
    | some l, some ls => some (l :: ls)
    | _, _ => none

/-- Read a whole script, one line of text for one line of the script (R77). -/
def readScript (bs : List Byte) : Option (List ScriptLine) := readLines (splitLines bs)

end Sys2Proof.Machine
end

