-- ==== Sys2Proof/Safety.lean ====
section
/-! DEFINITION. What counts as a safe run (spec/60_exceptions.md rule R192: nothing in the block hangs,
crashes or becomes stuck), and the other terms the statements are made in. -/

namespace Sys2Proof.Machine

/-- The meaning answered a next state. -/
def Completes (r : Result) : Prop := ∃ t, r = .next t

/-- Every event of the run completes. -/
def SafeRun (evs : List Event) (s : State) : Prop := Completes (runEvents evs s)

/-- The eight registers of R10 have the same values in the two states. -/
def SameRegisters (s t : State) : Prop :=
  s.active = t.active ∧ s.frame = t.frame ∧ s.cursor = t.cursor ∧ s.loops = t.loops ∧
    s.rate = t.rate ∧ s.tmr = t.tmr ∧ s.symq = t.symq ∧ s.symqv = t.symqv

/-- The six session registers have the same values in the two states. -/
def SameSession (s t : State) : Prop :=
  s.active = t.active ∧ s.frame = t.frame ∧ s.cursor = t.cursor ∧ s.loops = t.loops ∧
    s.rate = t.rate ∧ s.tmr = t.tmr

/-- The identifier operand is valid: its length is 5 and slots 0 to 4 all hold hexadecimal digits
(R92, R93, R181). -/
abbrev IdentifierValid (f : CommandFields) : Prop :=
  f.idLen = 5 ∧ ∀ j : Fin 8, j.val < 5 → (hexval (slot f j)).isSome = true

/-- The value of a valid identifier: its five digits in base 16, the first the most significant
(R44). -/
def identifierValue (f : CommandFields) : Nat :=
  (hexval (slot f 0)).getD 0 * 16 ^ 4 + (hexval (slot f 1)).getD 0 * 16 ^ 3 +
    (hexval (slot f 2)).getD 0 * 16 ^ 2 + (hexval (slot f 3)).getD 0 * 16 + (hexval (slot f 4)).getD 0

/-- The bit-vector of a valid identifier (R95). -/
def identifierBits (f : CommandFields) : IdBits := BitVec.ofNat 20 (identifierValue f)

/-- The event begins a session when no session is active: a START with a valid identifier and a positive
effective rate (R122). -/
def beginsFromIdle (e : Event) : Bool :=
  match e.instr with
  | .start f => decide (IdentifierValid f ∧ 0 < effectiveRate f)
  | _ => false

/-- The response with a code and no payload (R67). -/
abbrev Output.answer (c : ResponseCode) : Output :=
  { sym := none, rsp := some { code := c, frame := 0, val := 0 } }

/-- The output of an event that emits a symbol. -/
abbrev Output.emission (y : FrameSymbol) : Output := { sym := some y, rsp := none }

/-- Lower-casing, the first of the two designs R91 compares: an ASCII capital letter in lower case, every
other byte as it is. -/
def lowerAscii (c : Byte) : Byte :=
  if 0x41 ≤ c.toNat ∧ c.toNat ≤ 0x5A then c + 0x20 else c

/-- The held output has the same value in the two states. -/
def SameHeldOutput (s t : State) : Prop := s.symq = t.symq ∧ s.symqv = t.symqv

end Sys2Proof.Machine
end

