-- ==== Sys2Proof/Certificates/Slice0/Obligations.lean ====
section
/-! DEFINITION. The statements for the provers, one `def Obligations.<Name> : Prop` each. The docstring
names the rule of spec/ that a statement formalises; a statement that rests on a choice of the model
says so and names the log entry. -/

open Sys2Proof Sys2Proof.Machine

/-! ### Decoding and the step -/

/-- R146, R145: the block takes the events in order, and a step at a pending event is exec of the
instruction the event decodes to, on the state with that event taken off the queue. The queue is the
model's own field (notes/assumptions/1.md). -/
def Obligations.StepRunsDecodedEvent : Prop :=
  ∀ (s : State) (e : Event) (rest : List Event) (i : Instr),
    s.pending = e :: rest → decode e.encoding = .ok i →
      step s = exec i { s with pending := rest }

/-- The model's choice (notes/assumptions/1.md), after T64: with no event pending a step keeps every
register and puts nothing out. -/
def Obligations.StepWithoutEventKeepsRegisters : Prop :=
  ∀ s : State, s.pending = [] → step s = .next { s with out := .silent }

/-- R131, R40: the tick of a TU event executes the symbol instruction that the frame cell at CURSOR
holds, and the timer is then reloaded (R130). -/
def Obligations.TickExecutesSymbolAtCursor : Prop :=
  ∀ s : State, s.WellFormed → s.active = true → s.tmr = 1 →
    ∃ t, exec (s.frame[s.cursor]).instr s = .next t ∧ exec .tu s = .next { t with tmr := t.rate }

/-- R62, R74: `op`, bits 102:101, selects the command, and nothing else does; every word decodes, with
its four operand fields. -/
def Obligations.OpFieldSelectsCommand : Prop :=
  ∀ w : CommandWord, ∃ f : CommandFields,
    f.rv = w.getLsbD 100 ∧ f.idLen = w.extractLsb' 96 4 ∧ f.idChars = w.extractLsb' 32 64 ∧
      f.rate = w.extractLsb' 0 32 ∧
      (w.getLsbD 102 = false → w.getLsbD 101 = false → decode (.command w) = .ok (.nop f)) ∧
      (w.getLsbD 102 = false → w.getLsbD 101 = true → decode (.command w) = .ok (.enc f)) ∧
      (w.getLsbD 102 = true → w.getLsbD 101 = false → decode (.command w) = .ok (.start f)) ∧
      (w.getLsbD 102 = true → w.getLsbD 101 = true → decode (.command w) = .ok (.stop f))

/-- R78: the worked encodings of the script lines, word for word, and the symbol codes of R66. -/
def Obligations.WorkedEncodingsDecode : Prop :=
  decode (.command 0x556162636465000000000000c8#103) =
      .ok (.start { rv := true, idLen := 5, idChars := 0x6162636465000000#64, rate := 200 }) ∧
    decode (.command 0x45616263646500000000000000#103) =
      .ok (.start { rv := false, idLen := 5, idChars := 0x6162636465000000#64, rate := 0 }) ∧
    decode (.command 0x25616263646500000000000000#103) =
      .ok (.enc { rv := false, idLen := 5, idChars := 0x6162636465000000#64, rate := 0 }) ∧
    decode (.command 0x60000000000000000000000000#103) =
      .ok (.stop { rv := false, idLen := 0, idChars := 0, rate := 0 }) ∧
    decode (.command 0x00000000000000000000000000#103) =
      .ok (.nop { rv := false, idLen := 0, idChars := 0, rate := 0 }) ∧
    decode (.symbol 0b00#2) = .ok .zero ∧ decode (.symbol 0b01#2) = .ok .one ∧
    decode (.symbol 0b10#2) = .ok .delimiter ∧ decode (.symbol 0b11#2) = .ok .terminator

/-- Decode and encode agree: every instruction, with every operand at every value its encoding admits,
is decoded from its own encoding (R61, R62, R66, R75). -/
def Obligations.DecodeInvertsEncode : Prop :=
  ∀ i : Instr, decode (encode i) = .ok i

/-- Each encoding has one meaning: whatever decodes to an instruction is that instruction's encoding,
every bit of it (R61, R62, R65, R66). -/
def Obligations.EncodeInvertsDecode : Prop :=
  ∀ (x : Encoding) (i : Instr), decode x = .ok i → encode i = x

/-- The model's fixed interface (notes/assumptions/2.md): an opcode-table word that the decoder reads as
a command or as the pin event TU is, once placed, run by the very next step. -/
def Obligations.PlacedCommandRunsNext : Prop :=
  ∀ (s : State) (nbits w : Nat) (i : Instr), decodeTableWord nbits w = some i →
    nbits ≠ 2 → nbits ≠ 8 → step (s.withFetchWord nbits w) = exec i s

/-- The same for a table word of a symbol, in format S's own width and in whole bytes: each symbol's code
is read as its instruction, and a word read as a symbol, once placed, is emitted by the very next step
(notes/assumptions/2.md). -/
def Obligations.PlacedSymbolRunsNext : Prop :=
  ∀ (nbits : Nat) (y : FrameSymbol), nbits = 2 ∨ nbits = 8 →
    decodeTableWord nbits y.code.toNat = some y.instr ∧
    ∀ (s : State) (w : Nat), decodeTableWord nbits w = some y.instr →
      (s.symqv = false → s.symq = .delimiter) →
        ∃ t, step (s.withFetchWord nbits w) = .next t ∧ t.out = .emission y ∧
          t.symq = y ∧ t.symqv = true ∧ t.pending = s.pending

/-- The queue is only a way to hand events over: stepping the machine as many times as there are events
pending is the run over those events (R52, R146). -/
def Obligations.SteppingIsRunningTheEvents : Prop :=
  ∀ (evs rest : List Event) (s : State), s.pending = evs ++ rest →
    Host.Core.run Sys2Proof.core evs.length s = runEvents evs { s with pending := rest }

/-! ### The commands -/

/-- R129: NOP responds OK and leaves every register as it was, whatever its other fields hold; a word
with `op` = 0b00 is a NOP, the all-zero word among them. -/
def Obligations.NopOnlyResponds : Prop :=
  (∀ (f : CommandFields) (s : State), exec (.nop f) s = .next { s with out := .answer .ok }) ∧
    (∀ w : CommandWord, w.getLsbD 102 = false → w.getLsbD 101 = false →
      ∃ f, decode (.command w) = .ok (.nop f)) ∧
    ∃ f, decode (.command 0) = .ok (.nop f)

/-- R103: ENC of a valid identifier responds OK with its value and its packed frame, and writes no
register; `rv` and `rate` play no part. -/
def Obligations.EncRespondsValueAndFrame : Prop :=
  ∀ (f : CommandFields) (s : State), IdentifierValid f →
    exec (.enc f) s = .next { s with
      out := { sym := none
               rsp := some { code := .ok
                             frame := packFrame (toFrame (identifierBits f))
                             val := identifierBits f } } } ∧
    identifierValue f < 2 ^ 20

/-- R181: ENC and START fail with InvalidIdentifier exactly when `id_len` is not 5 or one of slots 0 to
4 is no hexadecimal digit byte, in every state and whatever the rate; nothing else is recorded. -/
def Obligations.InvalidIdentifierCauses : Prop :=
  ∀ (f : CommandFields) (s : State),
    ((f.idLen ≠ 5 ∨ ∃ j : Fin 8, j.val < 5 ∧ hexval (slot f j) = none) →
      exec (.enc f) s = .next { s with out := .answer (.failed .invalidIdentifier) } ∧
      exec (.start f) s = .next { s with out := .answer (.failed .invalidIdentifier) }) ∧
    (f.idLen = 5 → (∀ j : Fin 8, j.val < 5 → hexval (slot f j) ≠ none) →
      ∀ (i : Instr) (t : State) (r : Response), i = .enc f ∨ i = .start f →
        exec i s = .next t → t.out.rsp = some r → r.code ≠ .failed .invalidIdentifier)

/-- R18, R104: the Encoder has no state. What ENC answers depends on the text alone, not on the state
nor on `rv` and `rate`, and it leaves every register as it was. -/
def Obligations.EncAnswerIndependentOfState : Prop :=
  ∀ (f g : CommandFields), textOf f = textOf g → ∃ o : Output,
    (∀ s : State, exec (.enc f) s = .next { s with out := o }) ∧
    ∀ s : State, exec (.enc g) s = .next { s with out := o }

/-- R91: lower-casing a byte first does not change its digit value, so two identifiers that differ only
in letter case are answered alike by ENC, and START treats them alike. Lower-casing is that of ASCII
(notes/assumptions/11.md). -/
def Obligations.LetterCaseDoesNotMatter : Prop :=
  (∀ c : Byte, hexval (lowerAscii c) = hexval c) ∧
  ∀ (f g : CommandFields) (s : State), f.idLen = g.idLen → f.rv = g.rv → f.rate = g.rate →
    (∀ j : Fin 8, j.val < 5 → lowerAscii (slot f j) = lowerAscii (slot g j)) →
      exec (.enc f) s = exec (.enc g) s ∧ exec (.start f) s = exec (.start g) s

/-- R64: the effective rate is the two's complement `rate` field when `rv` = 1 and 200 when `rv` = 0. Two's
complement is general knowledge by the spec's own mark (G3). -/
def Obligations.EffectiveRateAssembly : Prop :=
  ∀ f : CommandFields,
    (f.rv = true → f.rate.toNat < 2 ^ 31 → effectiveRate f = f.rate.toNat) ∧
    (f.rv = true → 2 ^ 31 ≤ f.rate.toNat → effectiveRate f = (f.rate.toNat : Int) - 2 ^ 32) ∧
    (f.rv = false → effectiveRate f = 200)

/-- R122, R126: START of a valid identifier from idle with a positive effective rate writes ACTIVE,
FRAME, CURSOR, LOOPS, RATE and TMR, responds OK, and writes nothing else; RATE and TMR hold the
effective rate. -/
def Obligations.StartBeginsSession : Prop :=
  ∀ (f : CommandFields) (s : State), IdentifierValid f → s.active = false → 0 < effectiveRate f →
    ∃ r : TimeUnits, (r.toNat : Int) = effectiveRate f ∧
      exec (.start f) s = .next { s with
        active := true
        frame := toFrame (identifierBits f)
        cursor := 0
        loops := 0
        rate := r
        tmr := r
        out := .answer .ok }

/-- R186: the table of START's responses by identifier, ACTIVE and effective rate; a failing START leaves
every register as it was; ENC answers OK or InvalidIdentifier and nothing else. -/
def Obligations.StartErrorPriority : Prop :=
  ∀ (f : CommandFields) (s : State),
    (¬ IdentifierValid f →
      exec (.start f) s = .next { s with out := .answer (.failed .invalidIdentifier) }) ∧
    (IdentifierValid f → s.active = true →
      exec (.start f) s = .next { s with out := .answer (.failed .alreadyRunning) }) ∧
    (IdentifierValid f → s.active = false → effectiveRate f ≤ 0 →
      exec (.start f) s = .next { s with out := .answer (.failed .invalidRate) }) ∧
    (IdentifierValid f → s.active = false → 1 ≤ effectiveRate f →
      ∃ t, exec (.start f) s = .next t ∧ t.out = .answer .ok ∧ t.active = true) ∧
    ∃ (t : State) (r : Response), exec (.enc f) s = .next t ∧ t.out.rsp = some r ∧
      (r.code = .ok ∨ r.code = .failed .invalidIdentifier)

/-- R127: STOP ends a session by writing the six session registers to their idle values, and leaves
SYMQ and SYMQV; with no session it writes nothing; it responds OK either way, whatever its other fields
hold. -/
def Obligations.StopEndsSession : Prop :=
  ∀ (f : CommandFields) (s : State),
    (s.active = true →
      exec (.stop f) s = .next { s with
        active := false
        frame := Vector.replicate 41 .zero
        cursor := 0
        loops := 0
        rate := 0
        tmr := 0
        out := .answer .ok }) ∧
    (s.active = false → exec (.stop f) s = .next { s with out := .answer .ok })

/-- R128: for any state, a second STOP finds no session, answers OK and leaves the state of the first,
which answered OK too. -/
def Obligations.StopIsIdempotent : Prop :=
  ∀ (f g : CommandFields) (s : State), ∃ t, exec (.stop f) s = .next t ∧ t.active = false ∧
    exec (.stop g) t = .next t ∧ t.out = .answer .ok

/-- R141: after a STOP a START does what it does from the reset state, apart from the held output, which
stays as it was. -/
def Obligations.RestartForgetsOldSession : Prop :=
  ∀ (f g : CommandFields) (s t : State), s.WellFormed → exec (.stop g) s = .next t →
    exec (.start f) t =
      exec (.start f) { State.reset with symq := s.symq, symqv := s.symqv, pending := s.pending }

/-- R180: a command that fails writes no register, emits nothing and carries no payload. -/
def Obligations.FailedCommandChangesNothing : Prop :=
  ∀ (i : Instr) (s t : State) (r : Response),
    exec i s = .next t → t.out.rsp = some r → r.code ≠ .ok →
      SameRegisters s t ∧ t.pending = s.pending ∧ t.out = .answer r.code

/-- R182: `toBitVector` raises Overflow from 2^20 on, and no response of the block ever carries its
code. -/
def Obligations.OverflowNeverReported : Prop :=
  (∀ n : Nat, 2 ^ 20 ≤ n → toBitVector n = .error .overflow) ∧
  ∀ (i : Instr) (s t : State) (r : Response),
    exec i s = .next t → t.out.rsp = some r → r.code ≠ .failed .overflow

/-- R95: `toBitVector` fails with Overflow exactly from 2^20 on, and below that gives the 20-bit field of
the same value. -/
def Obligations.ToBitVectorBoundary : Prop :=
  ∀ n : Nat, (2 ^ 20 ≤ n → toBitVector n = .error .overflow) ∧
    (n < 2 ^ 20 → ∃ v, toBitVector n = .ok v ∧ v.toNat = n)

/-! ### Time, ticks and symbols -/

/-- R130, R131: TU in a well-formed state. Idle: nothing. TMR > 1: TMR less one, no emission. TMR = 1:
the symbol at CURSOR is emitted and held, CURSOR advances and wraps from 40 to 0 with LOOPS counted
modulo 2^16, TMR is reloaded from RATE. -/
def Obligations.TuCountsAndTicks : Prop :=
  ∀ s : State, s.WellFormed →
    (s.active = false → exec .tu s = .next { s with out := .silent }) ∧
    (s.active = true → 1 < s.tmr.toNat →
      ∃ m : TimeUnits, m.toNat + 1 = s.tmr.toNat ∧
        exec .tu s = .next { s with tmr := m, out := .silent }) ∧
    (s.active = true → s.tmr.toNat = 1 →
      exec .tu s = .next { s with
        cursor := if s.cursor = 40 then 0 else s.cursor + 1
        loops := if s.cursor = 40 then s.loops + 1 else s.loops
        tmr := s.rate
        symq := s.frame[s.cursor]
        symqv := true
        out := .emission s.frame[s.cursor] })

/-- The model's choice (notes/assumptions/4.md), after R192 and V8: TU in a state outside R20 is refused
by name. -/
def Obligations.TuRefusesIllFormedState : Prop :=
  ∀ s : State, ¬ s.WellFormed → exec .tu s = .refused .illFormedState

/-- R162: ZERO. A tick that finds CURSOR = 2i and bit 19-i of the session's value 0 executes ZERO: emitted,
held, `rgb` blue, CURSOR one further, nothing else written; the TU that holds the tick does the same and
reloads TMR. -/
def Obligations.ZeroEmittedForZeroBit : Prop :=
  ∀ (s : State) (v : IdBits) (i : Fin 20), s.WellFormed → s.active = true → s.tmr = 1 →
    s.frame = toFrame v → s.cursor.val = 2 * i.val → v.getLsbD (19 - i.val) = false →
      ∃ t : State, exec .zero s = .next t ∧ exec .tu s = .next { t with tmr := s.rate } ∧
        t = { s with
          cursor := s.cursor + 1, symq := .zero, symqv := true, out := .emission .zero } ∧
        t.cursor.val = s.cursor.val + 1 ∧
        t.ports.symValid = true ∧ t.ports.sym = 0b00 ∧ t.ports.rgb = 0x0000FF

/-- R163: ONE, where the bit is 1: emitted, held, `rgb` green. -/
def Obligations.OneEmittedForOneBit : Prop :=
  ∀ (s : State) (v : IdBits) (i : Fin 20), s.WellFormed → s.active = true → s.tmr = 1 →
    s.frame = toFrame v → s.cursor.val = 2 * i.val → v.getLsbD (19 - i.val) = true →
      ∃ t : State, exec .one s = .next t ∧ exec .tu s = .next { t with tmr := s.rate } ∧
        t = { s with
          cursor := s.cursor + 1, symq := .one, symqv := true, out := .emission .one } ∧
        t.cursor.val = s.cursor.val + 1 ∧
        t.ports.symValid = true ∧ t.ports.sym = 0b01 ∧ t.ports.rgb = 0x00FF00

/-- R164: DELIMITER, at every odd index, whatever the identifier: `rgb` black, CURSOR one further, from
39 to 40 too. -/
def Obligations.DelimiterEmittedAtOddIndex : Prop :=
  ∀ s : State, s.WellFormed → s.active = true → s.tmr = 1 → s.cursor.val % 2 = 1 →
    ∃ t : State, exec .delimiter s = .next t ∧ exec .tu s = .next { t with tmr := s.rate } ∧
      t = { s with
        cursor := s.cursor + 1, symq := .delimiter, symqv := true,
        out := .emission .delimiter } ∧
      t.cursor.val = s.cursor.val + 1 ∧
      t.ports.symValid = true ∧ t.ports.sym = 0b10 ∧ t.ports.rgb = 0x000000

/-- R165: TERMINATOR, at index 40, whatever the identifier: `rgb` red, CURSOR back to 0, LOOPS one more
modulo 65536; the session goes on. No other symbol's tick does this: where a symbol, or a TU, leaves LOOPS
changed or moves CURSOR otherwise than one further, the symbol is TERMINATOR, at index 40. -/
def Obligations.TerminatorWrapsAndCounts : Prop :=
  (∀ s : State, s.WellFormed → s.active = true → s.tmr = 1 → s.cursor = 40 →
    ∃ t : State, exec .terminator s = .next t ∧ exec .tu s = .next { t with tmr := s.rate } ∧
      t = { s with
        cursor := 0, loops := s.loops + 1, symq := .terminator, symqv := true,
        out := .emission .terminator } ∧
      t.loops.toNat = (s.loops.toNat + 1) % 65536 ∧
      t.ports.symValid = true ∧ t.ports.sym = 0b11 ∧ t.ports.rgb = 0xFF0000) ∧
  (∀ (s t : State) (y : FrameSymbol), exec y.instr s = .next t →
    (t.loops ≠ s.loops ∨ t.cursor.val ≠ s.cursor.val + 1) → y = .terminator ∧ s.cursor = 40) ∧
  ∀ s t : State, exec .tu s = .next t →
    (t.loops ≠ s.loops ∨ (t.cursor ≠ s.cursor ∧ t.cursor.val ≠ s.cursor.val + 1)) →
      t.out = .emission .terminator ∧ s.cursor = 40

/-- The model's choice (notes/assumptions/5.md), after R161: a frame symbol executed where no tick would
find it is refused by name. -/
def Obligations.SymbolElsewhereRefused : Prop :=
  ∀ (s : State) (y : FrameSymbol), ¬ s.TickFinds y →
    exec y.instr s = .refused .symbolNotAtCursor

/-- R138, R224: as long as no RESET and no STOP comes, a session emits its next symbol at the TU event
that TMR counts down to, not before it, and it does emit then, whatever commands come between. -/
def Obligations.NextTickAfterExactlyTmrUnits : Prop :=
  ∀ (s : State) (evs : List Event), s.WellFormed → s.active = true →
    (∀ e ∈ evs, keepsSession e = true) →
      (countTu evs < s.tmr.toNat → emissions evs s = []) ∧
      (countTu evs = s.tmr.toNat → emissions evs s = [s.frame[s.cursor]])

/-- R139, R135, R136: the closed form of a session. After a START that succeeded and any events but RESET
and STOP among which n are TU, with r the session's rate: CURSOR = (n div r) mod 41, LOOPS = ((n div r)
div 41) mod 65536, TMR = r - (n mod r), and FRAME and RATE are what the START wrote. -/
def Obligations.SessionClosedForm : Prop :=
  ∀ (f : CommandFields) (s t : State) (evs : List Event), s.WellFormed →
    exec (.start f) s = .next t → t.out = .answer .ok →
    (∀ e ∈ evs, keepsSession e = true) →
      ∃ u, runEvents evs t = .next u ∧ u.active = true ∧ u.frame = t.frame ∧ u.rate = t.rate ∧
        (t.rate.toNat : Int) = effectiveRate f ∧
        u.cursor.val = countTu evs / t.rate.toNat % 41 ∧
        u.loops.toNat = countTu evs / t.rate.toNat / 41 % 65536 ∧
        u.tmr.toNat = t.rate.toNat - countTu evs % t.rate.toNat

/-- R139, R161, R133: the symbols a session emits. Over the same events it emits exactly n div r symbols,
the j-th of them (from 0) being FRAME[j mod 41]. -/
def Obligations.SessionEmitsFrameInOrder : Prop :=
  ∀ (f : CommandFields) (s t : State) (evs : List Event), s.WellFormed →
    exec (.start f) s = .next t → t.out = .answer .ok →
    (∀ e ∈ evs, keepsSession e = true) →
      emissions evs t =
        (List.range (countTu evs / t.rate.toNat)).map
          fun j => t.frame[j % 41]'(Nat.mod_lt _ (by decide))

/-- R53, R140: after a STOP no symbol is emitted, however many time units pass and whatever else comes,
until a START that succeeds. -/
def Obligations.NoEmissionAfterStop : Prop :=
  ∀ (f : CommandFields) (s : State) (evs : List Event), s.WellFormed →
    (∀ e ∈ evs, beginsFromIdle e = false) →
      ∃ t, exec (.stop f) s = .next t ∧ emissions evs t = [] ∧ SafeRun evs t

/-- R172 (a): no two consecutive emissions of a session are the same symbol, across the wrap too. -/
def Obligations.ConsecutiveEmissionsDiffer : Prop :=
  ∀ (s : State) (evs : List Event), s.WellFormed → s.active = true →
    (∀ e ∈ evs, keepsSession e = true) → List.IsChain (· ≠ ·) (emissions evs s)

/-! ### Reset, invariants, whole-machine rules -/

/-- R211, R210: RESET writes every register with its stated value, whatever the state was, with no
response and no emission; the events still to come are the environment's. -/
def Obligations.ResetWritesEveryRegister : Prop :=
  ∀ s : State, exec .reset s = .next
    { active := false
      frame := Vector.replicate 41 .zero
      cursor := 0
      loops := 0
      rate := 0
      tmr := 0
      symq := .delimiter
      symqv := false
      out := { sym := none, rsp := none }
      pending := s.pending }

/-- R212: the reset state satisfies every invariant of R20, and its ports are idle and dark. -/
def Obligations.ResetStateIsWellFormed : Prop :=
  State.reset.WellFormed ∧
    State.reset.ports =
      { rsp := none, symValid := false, sym := 0b00, symQ := 0b10, symQv := false,
        rgb := 0x000000, active := false, cursor := 0, loops := 0 }

/-- R20: every step keeps the invariants. -/
def Obligations.StepKeepsWellFormed : Prop :=
  ∀ s t : State, s.WellFormed → step s = .next t → t.WellFormed

/-- R192, R146: in a well-formed state every event completes, and every sequence of events runs to its
end, with one output for each event. -/
def Obligations.EveryEventCompletes : Prop :=
  ∀ (evs : List Event) (s : State), s.WellFormed →
    Completes (step s) ∧ SafeRun evs s ∧ (traceEvents evs s).length = evs.length

/-- R21: two well-formed idle states differ at most in SYMQ and SYMQV (and in the model's own fields). -/
def Obligations.IdleStateIsCanonical : Prop :=
  ∀ s t : State, s.WellFormed → t.WellFormed → s.active = false → t.active = false →
    SameSession s t

/-- R146, R145: a command responds exactly once and emits nothing; a TU never responds, and emits exactly
when a session's timer fires; RESET does neither. -/
def Obligations.OutputsByEvent : Prop :=
  ∀ (e : Event) (s t : State), applyEvent e s = .next t →
    (∀ w, e = .cmd w → t.out.sym = none ∧ ∃ r, t.out.rsp = some r) ∧
    (e = .tu → t.out.rsp = none ∧ (t.out.sym.isSome = true ↔ s.active = true ∧ s.tmr.toNat = 1)) ∧
    (e = .reset → t.out = .silent)

/-- R171: along a run of well-formed states there is one response for each command, in command order. -/
def Obligations.OneResponsePerCommand : Prop :=
  ∀ (evs : List Event) (s : State), s.WellFormed →
    (responses evs s).length = evs.countP fun e => e != .tu && e != .reset

/-- R166, R14: SYMQ and SYMQV are written only by an emission and by RESET: an emission holds its symbol,
and any other event leaves both. -/
def Obligations.HeldOutputFollowsEmissions : Prop :=
  ∀ (e : Event) (s t : State), applyEvent e s = .next t → e ≠ .reset →
    (t.out.sym = none → SameHeldOutput s t) ∧
    (∀ y, t.out.sym = some y → t.symq = y ∧ t.symqv = true)

/-- R120: an event that changes a session register is RESET, a TU, a STOP, or a START that succeeded. -/
def Obligations.OnlyTheseEventsChangeSession : Prop :=
  ∀ (e : Event) (s t : State), applyEvent e s = .next t → ¬ SameSession s t →
    e = .reset ∨ e = .tu ∨ (∃ f, e.instr = .stop f) ∨
      (∃ f, e.instr = .start f ∧ t.out = .answer .ok)

/-- R126: a successful START is the only event that sets ACTIVE, and the only one that writes a frame
other than the idle one. -/
def Obligations.OnlyStartWritesFrame : Prop :=
  ∀ (i : Instr) (s t : State), exec i s = .next t →
    (s.active = false ∧ t.active = true ∨ t.frame ≠ s.frame ∧ t.frame ≠ idleFrame) →
      ∃ f, i = .start f ∧ s.active = false ∧ t.out = .answer .ok ∧
        t.frame = toFrame (identifierBits f)

/-! ### Frames and words -/

/-- R90: the digit value of a byte, and none for every byte outside the three ranges. That the ranges are
those of the digit characters is general knowledge by the spec's own mark (G1). -/
def Obligations.HexDigitValues : Prop :=
  ∀ c : Byte,
    (0x30 ≤ c.toNat → c.toNat ≤ 0x39 → hexval c = some (c.toNat - 0x30)) ∧
    (0x41 ≤ c.toNat → c.toNat ≤ 0x46 → hexval c = some (c.toNat - 0x41 + 10)) ∧
    (0x61 ≤ c.toNat → c.toNat ≤ 0x66 → hexval c = some (c.toNat - 0x61 + 10)) ∧
    ((c.toNat < 0x30 ∨ (0x39 < c.toNat ∧ c.toNat < 0x41) ∨ (0x46 < c.toNat ∧ c.toNat < 0x61) ∨
      0x66 < c.toNat) → hexval c = none)

/-- R42, R99: the address map of the frame store of a bit-vector. -/
def Obligations.FrameAddressMap : Prop :=
  ∀ v : IdBits,
    (∀ i : Fin 20,
      (toFrame v)[2 * i.val]'(by omega) = (if v.getLsbD (19 - i.val) then .one else .zero) ∧
      (toFrame v)[2 * i.val + 1]'(by omega) = .delimiter) ∧
    (toFrame v)[40] = .terminator

/-- R100: every frame has exactly one TERMINATOR, at index 40, 20 DELIMITERs, at the odd indices, 20 data
symbols, at the even ones below 40, as many ONEs as the value has 1 bits, and no cell equal to the one
after it, across the wrap too. -/
def Obligations.FrameSymbolCounts : Prop :=
  ∀ v : IdBits,
    (toFrame v).toList.length = 41 ∧
    (∀ k : Fin 41, ((toFrame v)[k] = .terminator ↔ k.val = 40) ∧
      ((toFrame v)[k] = .delimiter ↔ k.val % 2 = 1) ∧
      (((toFrame v)[k] = .zero ∨ (toFrame v)[k] = .one) ↔ k.val % 2 = 0 ∧ k.val < 40)) ∧
    (toFrame v).toList.count .terminator = 1 ∧ (toFrame v).toList.count .delimiter = 20 ∧
      (toFrame v).toList.count .one + (toFrame v).toList.count .zero = 20 ∧
      (toFrame v).toList.count .one = (bitString v).count true ∧
      ∀ k : Fin 41, (toFrame v)[k] ≠ (toFrame v)[k + 1]

/-- R105: a frame determines the identifier's value, so `toFrame` is injective. -/
def Obligations.FrameDeterminesValue : Prop :=
  (∀ v : IdBits, frameValue (toFrame v) = v) ∧
    ∀ v w : IdBits, toFrame v = toFrame w → v = w

/-- R20 item 5: the frame test of the model holds exactly when there is exactly one value whose frame it
is. -/
def Obligations.EncoderFrameIsUnique : Prop :=
  ∀ f : Frame, isEncoderFrame f = true ↔ ∃! v : IdBits, f = toFrame v

/-- R71: symbol k of a packed frame is in bits 2k+1 : 2k, and a packed encoder frame reads, from the top,
the digit 3 and a digit 8 or 9 for each bit, the most significant bit's last. -/
def Obligations.PackedFrameLayout : Prop :=
  (∀ (f : Frame) (k : Fin 41), (packFrame f).extractLsb' (2 * k.val) 2 = (f[k]).code) ∧
    ∀ v : IdBits, (packFrame (toFrame v)).toNat / 16 ^ 20 = 3 ∧
      ∀ i : Fin 20, (packFrame (toFrame v)).toNat / 16 ^ i.val % 16 =
        if v.getLsbD (19 - i.val) then 9 else 8

/-- R67, R68: the fields of the response word and the numbers of the codes. -/
def Obligations.ResponseWordLayout : Prop :=
  (∀ r : Response, r.word.extractLsb' 102 3 = r.code.bits ∧ r.word.extractLsb' 20 82 = r.frame ∧
      r.word.extractLsb' 0 20 = r.val) ∧
    ResponseCode.ok.bits = 0 ∧ (ResponseCode.failed .invalidIdentifier).bits = 1 ∧
    (ResponseCode.failed .overflow).bits = 2 ∧ (ResponseCode.failed .invalidRate).bits = 3 ∧
    (ResponseCode.failed .alreadyRunning).bits = 4

/-! ### The mux design, the ports, instances, scripts -/

/-- R137: the mux gives the frame cell, and the gates give its code; so in a well-formed state with a
session it gives FRAME[CURSOR]. -/
def Obligations.MuxGivesFrameCell : Prop :=
  (∀ (v : IdBits) (c : Fin 41),
    muxSymbol v c = (toFrame v)[c] ∧ muxCode v (BitVec.ofNat 6 c.val) = ((toFrame v)[c]).code) ∧
  ∀ s : State, s.WellFormed → s.active = true →
    ∃ v : IdBits, s.frame = toFrame v ∧ muxSymbol v s.cursor = s.frame[s.cursor]

/-- R11, R171: a block that keeps the bit-vector and the mux instead of the 41 cells is equivalent to the
model: for every sequence of events from reset, every port shows the same after every event. The second
design stands beside the machine (notes/assumptions/14.md). -/
def Obligations.MuxDesignIsIndistinguishable : Prop :=
  ∀ evs : List Event, observe evs State.reset = muxObserve evs muxReset

/-- R167, R168, R160: the port `rgb` is the colour of the held symbol, `sym_q` its code, and `sym` the code
of the emitted symbol, 0b00 in an event that emits none. -/
def Obligations.PortsShowSymbolAndColour : Prop :=
  ∀ s : State,
    (s.symq = .zero → s.ports.rgb = 0x0000FF ∧ s.ports.symQ = 0b00) ∧
    (s.symq = .one → s.ports.rgb = 0x00FF00 ∧ s.ports.symQ = 0b01) ∧
    (s.symq = .delimiter → s.ports.rgb = 0x000000 ∧ s.ports.symQ = 0b10) ∧
    (s.symq = .terminator → s.ports.rgb = 0xFF0000 ∧ s.ports.symQ = 0b11) ∧
    (s.out.sym = none → s.ports.symValid = false ∧ s.ports.sym = 0b00) ∧
    (∀ y, s.out.sym = some y → s.ports.symValid = true ∧ s.ports.sym = y.code)

/-- After R25, R26, R210, T62 and T64: at one edge RESET is taken alone; otherwise the TU is taken first and
the command sees the state it left, and the emission and the response are put out together; an edge without
a pin changes nothing. The edge is a function beside the step (notes/assumptions/13.md). -/
def Obligations.EdgeTakesTuBeforeCommand : Prop :=
  ∀ (p : Edge) (s : State), s.WellFormed →
    (p.rst = true → applyEdge p s = .next { State.reset with pending := s.pending }) ∧
    (p.rst = false → p.tu = true → p.cmdValid = true →
      ∃ t u, applyEvent .tu s = .next t ∧ applyEvent (.cmd p.cmdWord) t = .next u ∧
        applyEdge p s = .next { u with out := { sym := t.out.sym, rsp := u.out.rsp } }) ∧
    (p.rst = false → p.tu = true → p.cmdValid = false → applyEdge p s = applyEvent .tu s) ∧
    (p.rst = false → p.tu = false → p.cmdValid = true →
      applyEdge p s = applyEvent (.cmd p.cmdWord) s) ∧
    (p.rst = false → p.tu = false → p.cmdValid = false →
      applyEdge p s = .next { s with out := .silent })

/-- R196: instances share nothing: an event applied to one of several leaves every other as it was. -/
def Obligations.InstancesShareNothing : Prop :=
  ∀ (k j : Nat) (e : Event) (sys sys' : List State), applyAt k e sys = .next sys' → j ≠ k →
    sys'[j]? = sys[j]? ∧ sys'.length = sys.length

/-- R65, R77: the assembler produces canonical words: every event of a line without `len=` is a pin event
or a word that decodes to a well-formed instruction. -/
def Obligations.AssemblerWordsAreCanonical : Prop :=
  ∀ (s : State) (l : ScriptLine) (evs : List Event), expandLine s l = some evs →
    (∀ n text, l ≠ .enc (some n) text) → (∀ n text rate, l ≠ .start (some n) text rate) →
      ∀ e ∈ evs, e.instr.wellFormed = true

/-- R78: `tick * N` expands to no event for N = 0 and to TMR + (N-1) * RATE events, all of them TU, for N at
least 1; it emits N symbols, and its last event is the one that emits the last of them. `tick` is `tu * TMR`,
and the same as `tick * 1`. -/
def Obligations.TickScriptEmitsExactly : Prop :=
  ∀ s : State, s.WellFormed → s.active = true →
    expandLine s .tick = some (List.replicate s.tmr.toNat .tu) ∧
    expandLine s (.tickTimes 1) = expandLine s .tick ∧
    ∀ n : Nat, ∃ evs, expandLine s (.tickTimes n) = some evs ∧
      (n = 0 → evs = []) ∧
      (0 < n → evs = List.replicate (s.tmr.toNat + (n - 1) * s.rate.toNat) .tu) ∧
      (emissions evs s).length = n ∧
      (0 < n → (emissions evs.dropLast s).length + 1 = n)
end

