-- ==== Sys2Proof/Laws/Decode.lean ====
section
/-! SUPPORT. The fields of a command word, read back from the word the encoder makes. -/

namespace Sys2Proof

/-- R75: the encoding of an event decodes to the event's instruction. -/
theorem decode_event_encoding (e : Event) : decode e.encoding = .ok e.instr := by
  cases e <;> rfl

/-- R62: `op` of an encoded command. -/
theorem opField_encodeCommand (op : BitVec 2) (f : CommandFields) :
    opField (encodeCommand op f) = op := by
  unfold opField encodeCommand
  ext i hi
  simp only [BitVec.getElem_extractLsb', BitVec.getLsbD_append]
  have : i = 0 ∨ i = 1 := by omega
  rcases this with rfl | rfl <;> simp

/-- R61: the operand fields of an encoded command. -/
theorem operandFields_encodeCommand (op : BitVec 2) (f : CommandFields) :
    operandFields (encodeCommand op f) = f := by
  obtain ⟨rv, idLen, idChars, rate⟩ := f
  simp only [operandFields, encodeCommand, CommandFields.mk.injEq]
  refine ⟨?_, ?_, ?_, ?_⟩
  · simp only [BitVec.getLsbD_append]
    simp
  · ext i hi
    simp only [BitVec.getElem_extractLsb', BitVec.getLsbD_append]
    simp [show ¬ (96 + i < 32) by omega, show ¬ (96 + i - 32 < 64) by omega,
      show 96 + i - 32 - 64 = i by omega, hi]
  · ext i hi
    simp only [BitVec.getElem_extractLsb', BitVec.getLsbD_append]
    simp [show ¬ (32 + i < 32) by omega, hi]
  · ext i hi
    simp only [BitVec.getElem_extractLsb', BitVec.getLsbD_append]
    simp [hi]

/-- R66: the code of a symbol names it. -/
theorem symbolOfCode_code (y : FrameSymbol) : symbolOfCode y.code = y := by
  cases y <;> rfl

theorem code_symbolOfCode : ∀ c : BitVec 2, (symbolOfCode c).code = c := by decide

end Sys2Proof
end

