-- ==== Sys2Proof/Laws/Encoder.lean ====
section
/-! SUPPORT. What the Encoder's functions answer: one lemma for each function, so that no later proof
unfolds one. -/

namespace Sys2Proof.Machine

/-- R90: the value of a digit is a 4-bit value. -/
theorem hexval_lt {c : Byte} {h : Nat} (e : hexval c = some h) : h < 16 := by
  unfold hexval at e
  split at e
  · cases e; omega
  · split at e
    · cases e; omega
    · split at e
      · cases e; omega
      · cases e

/-- R91: folding a byte's case keeps its digit value. -/
theorem hexval_lowerAscii : ∀ c : Byte, hexval (lowerAscii c) = hexval c := by decide +kernel

/-- R93: five digits give at most 2^20 - 1. -/
theorem digitsValue_lt {a b c d e : Nat} (ha : a < 16) (hb : b < 16) (hc : c < 16) (hd : d < 16)
    (he : e < 16) : digitsValue a b c d e < 2 ^ 20 := by
  unfold digitsValue; omega

/-- R93: what the parser answers for a list of five characters. -/
theorem parseFive_eq_some {c0 c1 c2 c3 c4 : Byte} {n : Nat} :
    parseFive [c0, c1, c2, c3, c4] = some n ↔
      ∃ h0 h1 h2 h3 h4, hexval c0 = some h0 ∧ hexval c1 = some h1 ∧ hexval c2 = some h2 ∧
        hexval c3 = some h3 ∧ hexval c4 = some h4 ∧ n = digitsValue h0 h1 h2 h3 h4 := by
  simp only [parseFive]
  constructor
  · intro h
    split at h
    · rename_i h0 h1 h2 h3 h4 e0 e1 e2 e3 e4
      cases h
      exact ⟨h0, h1, h2, h3, h4, e0, e1, e2, e3, e4, rfl⟩
    · cases h
  · rintro ⟨h0, h1, h2, h3, h4, e0, e1, e2, e3, e4, rfl⟩
    simp [e0, e1, e2, e3, e4]

/-- R43, R63: a text of length 5 is the first five slots. -/
theorem textOf_of_len_five {f : CommandFields} (h : f.idLen = 5) :
    textOf f = { len := 5, chars := [slot f 0, slot f 1, slot f 2, slot f 3, slot f 4] } := by
  unfold textOf
  rw [h]
  rfl

/-- R92: any other length has another text length. -/
theorem textOf_len (f : CommandFields) : (textOf f).len = f.idLen.toNat := rfl

theorem textOf_len_ne_five {f : CommandFields} (h : f.idLen ≠ 5) : (textOf f).len ≠ 5 := by
  rw [textOf_len]
  intro e
  exact h (BitVec.eq_of_toNat_eq e)

/-- The five slots of a valid identifier. -/
theorem IdentifierValid.digits {f : CommandFields} (h : IdentifierValid f) :
    ∃ h0 h1 h2 h3 h4, hexval (slot f 0) = some h0 ∧ hexval (slot f 1) = some h1 ∧
      hexval (slot f 2) = some h2 ∧ hexval (slot f 3) = some h3 ∧ hexval (slot f 4) = some h4 ∧
      identifierValue f = digitsValue h0 h1 h2 h3 h4 := by
  obtain ⟨-, hj⟩ := h
  obtain ⟨h0, e0⟩ := Option.isSome_iff_exists.mp (hj 0 (by decide))
  obtain ⟨h1, e1⟩ := Option.isSome_iff_exists.mp (hj 1 (by decide))
  obtain ⟨h2, e2⟩ := Option.isSome_iff_exists.mp (hj 2 (by decide))
  obtain ⟨h3, e3⟩ := Option.isSome_iff_exists.mp (hj 3 (by decide))
  obtain ⟨h4, e4⟩ := Option.isSome_iff_exists.mp (hj 4 (by decide))
  exact ⟨h0, h1, h2, h3, h4, e0, e1, e2, e3, e4, by
    simp [identifierValue, digitsValue, e0, e1, e2, e3, e4]⟩

/-- R93: a valid identifier parses to its value. -/
theorem parseIdentifier_valid {f : CommandFields} (h : IdentifierValid f) :
    parseIdentifier (textOf f) = .ok (identifierValue f) := by
  obtain ⟨h0, h1, h2, h3, h4, e0, e1, e2, e3, e4, hv⟩ := h.digits
  rw [textOf_of_len_five h.1, hv]
  simp [parseIdentifier, parseFive, e0, e1, e2, e3, e4]

/-- R93: the value of a valid identifier fits in 20 bits. -/
theorem identifierValue_lt {f : CommandFields} (h : IdentifierValid f) :
    identifierValue f < 2 ^ 20 := by
  obtain ⟨h0, h1, h2, h3, h4, e0, e1, e2, e3, e4, hv⟩ := h.digits
  rw [hv]
  exact digitsValue_lt (hexval_lt e0) (hexval_lt e1) (hexval_lt e2) (hexval_lt e3) (hexval_lt e4)

/-- R92, R93: an identifier that is not valid does not parse. -/
theorem parseIdentifier_invalid {f : CommandFields} (h : ¬ IdentifierValid f) :
    parseIdentifier (textOf f) = .error .invalidIdentifier := by
  by_cases hl : f.idLen = 5
  · rw [textOf_of_len_five hl]
    cases hp : parseFive [slot f 0, slot f 1, slot f 2, slot f 3, slot f 4] with
    | none => simp [parseIdentifier, hp]
    | some n =>
      exfalso
      obtain ⟨h0, h1, h2, h3, h4, e0, e1, e2, e3, e4, -⟩ := parseFive_eq_some.mp hp
      refine h ⟨hl, fun j hj => ?_⟩
      have : j = 0 ∨ j = 1 ∨ j = 2 ∨ j = 3 ∨ j = 4 := by omega
      rcases this with rfl | rfl | rfl | rfl | rfl <;> simp [e0, e1, e2, e3, e4]
  · simp [parseIdentifier, textOf_len_ne_five hl]

/-- R95: below 2^20 a number is its own bit-vector. -/
theorem toBitVector_of_lt {n : Nat} (h : n < 2 ^ 20) : toBitVector n = .ok (BitVec.ofNat 20 n) := by
  unfold toBitVector
  rw [if_neg]
  simp only [Config.overflowAt]
  omega

/-- R102: what the Encoder answers for the text of a command. -/
theorem encodeText_textOf (f : CommandFields) :
    encodeText (textOf f) =
      if IdentifierValid f then .ok (identifierBits f, toFrame (identifierBits f))
      else .error .invalidIdentifier := by
  by_cases h : IdentifierValid f
  · rw [if_pos h]
    simp only [encodeText, parseIdentifier_valid h, toBitVector_of_lt (identifierValue_lt h)]
    rfl
  · rw [if_neg h]
    simp only [encodeText, parseIdentifier_invalid h]

/-- R99: the cells of a frame. -/
@[simp] theorem toFrame_getElem (v : IdBits) (k : Nat) (h : k < 41) :
    (toFrame v)[k] = frameCell v ⟨k, h⟩ := by
  simp [toFrame]

@[simp] theorem toFrame_getElem_fin (v : IdBits) (k : Fin 41) : (toFrame v)[k] = frameCell v k := by
  simp [toFrame]

/-- R20 item 5: the frame test, as an equation. -/
theorem isEncoderFrame_iff (f : Frame) : isEncoderFrame f = true ↔ f = toFrame (frameValue f) := by
  simp [isEncoderFrame]

/-- R99: the three kinds of cell. -/
theorem frameCell_last (v : IdBits) : frameCell v 40 = .terminator := rfl

theorem frameCell_odd (v : IdBits) {k : Fin 41} (h : k.val % 2 = 1) : frameCell v k = .delimiter := by
  unfold frameCell
  rw [if_neg (by omega), if_pos h]

theorem frameCell_even (v : IdBits) {k : Fin 41} (h : k.val % 2 = 0) (h' : k.val ≠ 40) :
    frameCell v k = symOfBit (v.getLsbD (19 - k.val / 2)) := by
  unfold frameCell
  rw [if_neg h', if_neg (by omega)]

end Sys2Proof.Machine
end

