-- ==== Sys2Proof/Laws/State.lean ====
section
/-! SUPPORT. One lemma for each field under each update of the state: what it becomes, or that it is
unchanged. No later proof unfolds a record update. -/

namespace Sys2Proof.Machine

/-! ### quiet -/

@[simp] theorem State.quiet_active (s : State) : s.quiet.active = s.active := rfl
@[simp] theorem State.quiet_frame (s : State) : s.quiet.frame = s.frame := rfl
@[simp] theorem State.quiet_cursor (s : State) : s.quiet.cursor = s.cursor := rfl
@[simp] theorem State.quiet_loops (s : State) : s.quiet.loops = s.loops := rfl
@[simp] theorem State.quiet_rate (s : State) : s.quiet.rate = s.rate := rfl
@[simp] theorem State.quiet_tmr (s : State) : s.quiet.tmr = s.tmr := rfl
@[simp] theorem State.quiet_symq (s : State) : s.quiet.symq = s.symq := rfl
@[simp] theorem State.quiet_symqv (s : State) : s.quiet.symqv = s.symqv := rfl
@[simp] theorem State.quiet_out (s : State) : s.quiet.out = .silent := rfl
@[simp] theorem State.quiet_pending (s : State) : s.quiet.pending = s.pending := rfl

/-! ### respond -/

@[simp] theorem State.respond_active (s : State) (c : ResponseCode) (v : IdBits) (p : PackedFrame) :
    (s.respond c v p).active = s.active := rfl
@[simp] theorem State.respond_frame (s : State) (c : ResponseCode) (v : IdBits) (p : PackedFrame) :
    (s.respond c v p).frame = s.frame := rfl
@[simp] theorem State.respond_cursor (s : State) (c : ResponseCode) (v : IdBits) (p : PackedFrame) :
    (s.respond c v p).cursor = s.cursor := rfl
@[simp] theorem State.respond_loops (s : State) (c : ResponseCode) (v : IdBits) (p : PackedFrame) :
    (s.respond c v p).loops = s.loops := rfl
@[simp] theorem State.respond_rate (s : State) (c : ResponseCode) (v : IdBits) (p : PackedFrame) :
    (s.respond c v p).rate = s.rate := rfl
@[simp] theorem State.respond_tmr (s : State) (c : ResponseCode) (v : IdBits) (p : PackedFrame) :
    (s.respond c v p).tmr = s.tmr := rfl
@[simp] theorem State.respond_symq (s : State) (c : ResponseCode) (v : IdBits) (p : PackedFrame) :
    (s.respond c v p).symq = s.symq := rfl
@[simp] theorem State.respond_symqv (s : State) (c : ResponseCode) (v : IdBits) (p : PackedFrame) :
    (s.respond c v p).symqv = s.symqv := rfl
@[simp] theorem State.respond_out (s : State) (c : ResponseCode) (v : IdBits) (p : PackedFrame) :
    (s.respond c v p).out = { sym := none, rsp := some { code := c, frame := p, val := v } } := rfl
@[simp] theorem State.respond_pending (s : State) (c : ResponseCode) (v : IdBits) (p : PackedFrame) :
    (s.respond c v p).pending = s.pending := rfl

/-! ### respondOk -/

@[simp] theorem State.respondOk_active (s : State) : s.respondOk.active = s.active := rfl
@[simp] theorem State.respondOk_frame (s : State) : s.respondOk.frame = s.frame := rfl
@[simp] theorem State.respondOk_cursor (s : State) : s.respondOk.cursor = s.cursor := rfl
@[simp] theorem State.respondOk_loops (s : State) : s.respondOk.loops = s.loops := rfl
@[simp] theorem State.respondOk_rate (s : State) : s.respondOk.rate = s.rate := rfl
@[simp] theorem State.respondOk_tmr (s : State) : s.respondOk.tmr = s.tmr := rfl
@[simp] theorem State.respondOk_symq (s : State) : s.respondOk.symq = s.symq := rfl
@[simp] theorem State.respondOk_symqv (s : State) : s.respondOk.symqv = s.symqv := rfl
@[simp] theorem State.respondOk_out (s : State) :
    s.respondOk.out = { sym := none, rsp := some { code := .ok, frame := 0, val := 0 } } := rfl
@[simp] theorem State.respondOk_pending (s : State) : s.respondOk.pending = s.pending := rfl

/-! ### writeFrame -/

@[simp] theorem State.writeFrame_active (s : State) (f : Frame) :
    (s.writeFrame f).active = s.active := rfl
@[simp] theorem State.writeFrame_frame (s : State) (f : Frame) : (s.writeFrame f).frame = f := rfl
@[simp] theorem State.writeFrame_cursor (s : State) (f : Frame) :
    (s.writeFrame f).cursor = s.cursor := rfl
@[simp] theorem State.writeFrame_loops (s : State) (f : Frame) :
    (s.writeFrame f).loops = s.loops := rfl
@[simp] theorem State.writeFrame_rate (s : State) (f : Frame) :
    (s.writeFrame f).rate = s.rate := rfl
@[simp] theorem State.writeFrame_tmr (s : State) (f : Frame) : (s.writeFrame f).tmr = s.tmr := rfl
@[simp] theorem State.writeFrame_symq (s : State) (f : Frame) :
    (s.writeFrame f).symq = s.symq := rfl
@[simp] theorem State.writeFrame_symqv (s : State) (f : Frame) :
    (s.writeFrame f).symqv = s.symqv := rfl
@[simp] theorem State.writeFrame_out (s : State) (f : Frame) : (s.writeFrame f).out = s.out := rfl
@[simp] theorem State.writeFrame_pending (s : State) (f : Frame) :
    (s.writeFrame f).pending = s.pending := rfl

/-! ### emit -/

@[simp] theorem State.emit_active (s : State) (y : FrameSymbol) :
    (s.emit y).active = s.active := rfl
@[simp] theorem State.emit_frame (s : State) (y : FrameSymbol) : (s.emit y).frame = s.frame := rfl
@[simp] theorem State.emit_cursor (s : State) (y : FrameSymbol) :
    (s.emit y).cursor = s.cursor := rfl
@[simp] theorem State.emit_loops (s : State) (y : FrameSymbol) : (s.emit y).loops = s.loops := rfl
@[simp] theorem State.emit_rate (s : State) (y : FrameSymbol) : (s.emit y).rate = s.rate := rfl
@[simp] theorem State.emit_tmr (s : State) (y : FrameSymbol) : (s.emit y).tmr = s.tmr := rfl
@[simp] theorem State.emit_symq (s : State) (y : FrameSymbol) : (s.emit y).symq = y := rfl
@[simp] theorem State.emit_symqv (s : State) (y : FrameSymbol) : (s.emit y).symqv = true := rfl
@[simp] theorem State.emit_out (s : State) (y : FrameSymbol) :
    (s.emit y).out = { sym := some y, rsp := none } := rfl
@[simp] theorem State.emit_pending (s : State) (y : FrameSymbol) :
    (s.emit y).pending = s.pending := rfl

/-! ### reloadTimer -/

@[simp] theorem State.reloadTimer_active (s : State) : s.reloadTimer.active = s.active := rfl
@[simp] theorem State.reloadTimer_frame (s : State) : s.reloadTimer.frame = s.frame := rfl
@[simp] theorem State.reloadTimer_cursor (s : State) : s.reloadTimer.cursor = s.cursor := rfl
@[simp] theorem State.reloadTimer_loops (s : State) : s.reloadTimer.loops = s.loops := rfl
@[simp] theorem State.reloadTimer_rate (s : State) : s.reloadTimer.rate = s.rate := rfl
@[simp] theorem State.reloadTimer_tmr (s : State) : s.reloadTimer.tmr = s.rate := rfl
@[simp] theorem State.reloadTimer_symq (s : State) : s.reloadTimer.symq = s.symq := rfl
@[simp] theorem State.reloadTimer_symqv (s : State) : s.reloadTimer.symqv = s.symqv := rfl
@[simp] theorem State.reloadTimer_out (s : State) : s.reloadTimer.out = s.out := rfl
@[simp] theorem State.reloadTimer_pending (s : State) : s.reloadTimer.pending = s.pending := rfl

/-! ### beginSession -/

@[simp] theorem State.beginSession_active (s : State) (f : Frame) (r : Int) :
    (s.beginSession f r).active = true := rfl
@[simp] theorem State.beginSession_frame (s : State) (f : Frame) (r : Int) :
    (s.beginSession f r).frame = f := rfl
@[simp] theorem State.beginSession_cursor (s : State) (f : Frame) (r : Int) :
    (s.beginSession f r).cursor = 0 := rfl
@[simp] theorem State.beginSession_loops (s : State) (f : Frame) (r : Int) :
    (s.beginSession f r).loops = 0 := rfl
@[simp] theorem State.beginSession_rate (s : State) (f : Frame) (r : Int) :
    (s.beginSession f r).rate = BitVec.ofInt 31 r := rfl
@[simp] theorem State.beginSession_tmr (s : State) (f : Frame) (r : Int) :
    (s.beginSession f r).tmr = BitVec.ofInt 31 r := rfl
@[simp] theorem State.beginSession_symq (s : State) (f : Frame) (r : Int) :
    (s.beginSession f r).symq = s.symq := rfl
@[simp] theorem State.beginSession_symqv (s : State) (f : Frame) (r : Int) :
    (s.beginSession f r).symqv = s.symqv := rfl
@[simp] theorem State.beginSession_out (s : State) (f : Frame) (r : Int) :
    (s.beginSession f r).out = s.out := rfl
@[simp] theorem State.beginSession_pending (s : State) (f : Frame) (r : Int) :
    (s.beginSession f r).pending = s.pending := rfl

/-! ### endSession -/

@[simp] theorem State.endSession_active (s : State) : s.endSession.active = false := rfl
@[simp] theorem State.endSession_frame (s : State) : s.endSession.frame = idleFrame := rfl
@[simp] theorem State.endSession_cursor (s : State) : s.endSession.cursor = 0 := rfl
@[simp] theorem State.endSession_loops (s : State) : s.endSession.loops = 0 := rfl
@[simp] theorem State.endSession_rate (s : State) : s.endSession.rate = 0 := rfl
@[simp] theorem State.endSession_tmr (s : State) : s.endSession.tmr = 0 := rfl
@[simp] theorem State.endSession_symq (s : State) : s.endSession.symq = s.symq := rfl
@[simp] theorem State.endSession_symqv (s : State) : s.endSession.symqv = s.symqv := rfl
@[simp] theorem State.endSession_out (s : State) : s.endSession.out = s.out := rfl
@[simp] theorem State.endSession_pending (s : State) : s.endSession.pending = s.pending := rfl

/-! ### present -/

@[simp] theorem State.present_active (s : State) (e : Event) :
    (s.present e).active = s.active := rfl
@[simp] theorem State.present_frame (s : State) (e : Event) : (s.present e).frame = s.frame := rfl
@[simp] theorem State.present_cursor (s : State) (e : Event) :
    (s.present e).cursor = s.cursor := rfl
@[simp] theorem State.present_loops (s : State) (e : Event) : (s.present e).loops = s.loops := rfl
@[simp] theorem State.present_rate (s : State) (e : Event) : (s.present e).rate = s.rate := rfl
@[simp] theorem State.present_tmr (s : State) (e : Event) : (s.present e).tmr = s.tmr := rfl
@[simp] theorem State.present_symq (s : State) (e : Event) : (s.present e).symq = s.symq := rfl
@[simp] theorem State.present_symqv (s : State) (e : Event) : (s.present e).symqv = s.symqv := rfl
@[simp] theorem State.present_out (s : State) (e : Event) : (s.present e).out = s.out := rfl
@[simp] theorem State.present_pending (s : State) (e : Event) :
    (s.present e).pending = e :: s.pending := rfl

/-! ### advanceCursor and tick: the cursor and the loop counter are the only fields of the first -/

@[simp] theorem State.advanceCursor_active (s : State) : s.advanceCursor.active = s.active := rfl

@[simp] theorem State.advanceCursor_frame (s : State) : s.advanceCursor.frame = s.frame := rfl

@[simp] theorem State.advanceCursor_rate (s : State) : s.advanceCursor.rate = s.rate := rfl

@[simp] theorem State.advanceCursor_tmr (s : State) : s.advanceCursor.tmr = s.tmr := rfl

@[simp] theorem State.advanceCursor_symq (s : State) : s.advanceCursor.symq = s.symq := rfl

@[simp] theorem State.advanceCursor_symqv (s : State) : s.advanceCursor.symqv = s.symqv := rfl

@[simp] theorem State.advanceCursor_out (s : State) : s.advanceCursor.out = s.out := rfl

@[simp] theorem State.advanceCursor_pending (s : State) : s.advanceCursor.pending = s.pending := rfl

theorem State.advanceCursor_cursor (s : State) :
    s.advanceCursor.cursor = if s.cursor = 40 then 0 else s.cursor + 1 := rfl

theorem State.advanceCursor_loops (s : State) :
    s.advanceCursor.loops = if s.cursor = 40 then s.loops + 1 else s.loops := rfl

@[simp] theorem State.tick_active (s : State) (y : FrameSymbol) : (s.tick y).active = s.active := rfl

@[simp] theorem State.tick_frame (s : State) (y : FrameSymbol) : (s.tick y).frame = s.frame := rfl

@[simp] theorem State.tick_rate (s : State) (y : FrameSymbol) : (s.tick y).rate = s.rate := rfl

@[simp] theorem State.tick_tmr (s : State) (y : FrameSymbol) : (s.tick y).tmr = s.tmr := rfl

@[simp] theorem State.tick_symq (s : State) (y : FrameSymbol) : (s.tick y).symq = y := rfl

@[simp] theorem State.tick_symqv (s : State) (y : FrameSymbol) : (s.tick y).symqv = true := rfl

@[simp] theorem State.tick_out (s : State) (y : FrameSymbol) :
    (s.tick y).out = { sym := some y, rsp := none } := rfl

@[simp] theorem State.tick_pending (s : State) (y : FrameSymbol) :
    (s.tick y).pending = s.pending := rfl

theorem State.tick_cursor (s : State) (y : FrameSymbol) :
    (s.tick y).cursor = if s.cursor = 40 then 0 else s.cursor + 1 := rfl

theorem State.tick_loops (s : State) (y : FrameSymbol) :
    (s.tick y).loops = if s.cursor = 40 then s.loops + 1 else s.loops := rfl

@[simp] theorem State.readCell_eq (s : State) (k : Fin 41) : s.readCell k = s.frame[k] := rfl

@[simp] theorem State.readFrame_eq (s : State) : s.readFrame = s.frame := rfl

/-! ### The reset state (R211) -/

@[simp] theorem State.reset_active : State.reset.active = false := rfl
@[simp] theorem State.reset_frame : State.reset.frame = idleFrame := rfl
@[simp] theorem State.reset_cursor : State.reset.cursor = 0 := rfl
@[simp] theorem State.reset_loops : State.reset.loops = 0 := rfl
@[simp] theorem State.reset_rate : State.reset.rate = 0 := rfl
@[simp] theorem State.reset_tmr : State.reset.tmr = 0 := rfl
@[simp] theorem State.reset_symq : State.reset.symq = .delimiter := rfl
@[simp] theorem State.reset_symqv : State.reset.symqv = false := rfl
@[simp] theorem State.reset_out : State.reset.out = .silent := rfl
@[simp] theorem State.reset_pending : State.reset.pending = [] := rfl

end Sys2Proof.Machine
end

