-- ==== Sys2Proof/Laws/Ops.lean ====
section
/-! SUPPORT. What each shared operation and each meaning can do, said once; later proofs cite these
instead of unfolding. -/

namespace Sys2Proof.Machine

/-! ### Shared operations -/

/-- R180: an error answers its code and changes nothing else. -/
theorem raise_eq (e : CommandError) (s : State) :
    raise e s = .next { s with out := .answer (.failed e) } := rfl

/-- `andThen` answers a next state exactly after a next state. -/
theorem andThen_eq_next {r : Result} {g : State → State} {t : State} :
    andThen r g = .next t ↔ ∃ u, r = .next u ∧ t = g u := by
  cases r <;> simp [andThen, eq_comm]

@[simp] theorem andThen_next (u : State) (g : State → State) :
    andThen (.next u) g = .next (g u) := rfl

/-- A symbol where a tick finds it. -/
theorem execSymbol_of_finds {s : State} {y : FrameSymbol} (h : s.TickFinds y) :
    execSymbol y s = .next (s.tick y) := by
  unfold execSymbol
  rw [if_pos h]

/-- A symbol where no tick finds it. -/
theorem execSymbol_of_not_finds {s : State} {y : FrameSymbol} (h : ¬ s.TickFinds y) :
    execSymbol y s = .refused .symbolNotAtCursor := by
  unfold execSymbol
  rw [if_neg h]

/-- Everything `execSymbol` can do when it answers a next state. -/
theorem execSymbol_eq_next {s t : State} {y : FrameSymbol} (h : execSymbol y s = .next t) :
    s.TickFinds y ∧ t = s.tick y := by
  unfold execSymbol at h
  split at h
  · cases h; exact ⟨‹_›, rfl⟩
  · cases h

/-- R131: on a tick the cell at the cursor is executed, whichever symbol it holds. -/
theorem execCell_eq (s : State) : execCell s = execSymbol s.frame[s.cursor] s := by
  unfold execCell
  rw [State.readCell_eq]
  cases s.frame[s.cursor] <;> rfl

/-- The instruction of a symbol has the symbol's meaning. -/
theorem exec_symbol_instr (y : FrameSymbol) (s : State) : exec y.instr s = execSymbol y s := by
  cases y <;> rfl

/-- The checks of START. -/
theorem startCheck_eq (a : Bool) (r : Int) :
    startCheck a r = if a = true then .error .alreadyRunning
      else if r ≤ 0 then .error .invalidRate else .ok () := rfl

/-! ### The meanings, as equations -/

theorem execNop_eq (s : State) : execNop s = .next { s with out := .answer .ok } := rfl

theorem execEnc_valid {f : CommandFields} (h : IdentifierValid f) (s : State) :
    execEnc f s = .next (s.respond .ok (identifierBits f)
      (packFrame (toFrame (identifierBits f)))) := by
  simp only [execEnc, encodeText_textOf, if_pos h]

theorem execEnc_invalid {f : CommandFields} (h : ¬ IdentifierValid f) (s : State) :
    execEnc f s = .next { s with out := .answer (.failed .invalidIdentifier) } := by
  simp only [execEnc, encodeText_textOf, if_neg h, raise_eq]

theorem execStart_invalid {f : CommandFields} (h : ¬ IdentifierValid f) (s : State) :
    execStart f s = .next { s with out := .answer (.failed .invalidIdentifier) } := by
  simp only [execStart, encodeText_textOf, if_neg h, raise_eq]

theorem execStart_active {f : CommandFields} (h : IdentifierValid f) {s : State}
    (ha : s.active = true) :
    execStart f s = .next { s with out := .answer (.failed .alreadyRunning) } := by
  simp only [execStart, encodeText_textOf, if_pos h, startCheck_eq, if_pos ha, raise_eq]

theorem execStart_badRate {f : CommandFields} (h : IdentifierValid f) {s : State}
    (ha : s.active = false) (hr : effectiveRate f ≤ 0) :
    execStart f s = .next { s with out := .answer (.failed .invalidRate) } := by
  simp only [execStart, encodeText_textOf, if_pos h, startCheck_eq, ha, Bool.false_eq_true,
    if_false, if_pos hr, raise_eq]

theorem execStart_begins {f : CommandFields} (h : IdentifierValid f) {s : State}
    (ha : s.active = false) (hr : 0 < effectiveRate f) :
    execStart f s =
      .next (s.beginSession (toFrame (identifierBits f)) (effectiveRate f)).respondOk := by
  simp only [execStart, encodeText_textOf, if_pos h, startCheck_eq, ha, Bool.false_eq_true,
    if_false, if_neg (not_le.mpr hr)]

/-- What a session's beginning leaves, with the response OK (R122), field by field. -/
theorem State.beginSession_respondOk (s : State) (fr : Frame) (r : Int) :
    (s.beginSession fr r).respondOk =
      { s with
        active := true
        frame := fr
        cursor := 0
        loops := 0
        rate := BitVec.ofInt 31 r
        tmr := BitVec.ofInt 31 r
        out := .answer .ok } := rfl

/-- What a session's end leaves, with the response OK (R127), field by field. -/
theorem State.endSession_respondOk (s : State) :
    s.endSession.respondOk =
      { s with
        active := false
        frame := idleFrame
        cursor := 0
        loops := 0
        rate := 0
        tmr := 0
        out := .answer .ok } := rfl

/-- Everything START can do. -/
theorem execStart_cases (f : CommandFields) (s : State) :
    (IdentifierValid f ∧ s.active = false ∧ 0 < effectiveRate f ∧
      execStart f s =
        .next (s.beginSession (toFrame (identifierBits f)) (effectiveRate f)).respondOk) ∨
    ∃ e : CommandError, e ≠ .overflow ∧
      execStart f s = .next { s with out := .answer (.failed e) } := by
  by_cases h : IdentifierValid f
  · by_cases ha : s.active = true
    · exact .inr ⟨.alreadyRunning, by decide, execStart_active h ha⟩
    · have ha : s.active = false := by simpa using ha
      by_cases hr : effectiveRate f ≤ 0
      · exact .inr ⟨.invalidRate, by decide, execStart_badRate h ha hr⟩
      · exact .inl ⟨h, ha, not_le.mp hr, execStart_begins h ha (not_le.mp hr)⟩
  · exact .inr ⟨.invalidIdentifier, by decide, execStart_invalid h s⟩

/-- Everything ENC can do. -/
theorem execEnc_cases (f : CommandFields) (s : State) :
    (IdentifierValid f ∧ execEnc f s = .next (s.respond .ok (identifierBits f)
      (packFrame (toFrame (identifierBits f))))) ∨
    execEnc f s = .next { s with out := .answer (.failed .invalidIdentifier) } := by
  by_cases h : IdentifierValid f
  · exact .inl ⟨h, execEnc_valid h s⟩
  · exact .inr (execEnc_invalid h s)

/-- Everything STOP can do. -/
theorem execStop_cases (s : State) :
    (s.active = true ∧ execStop s = .next s.endSession.respondOk) ∨
    (s.active = false ∧ execStop s = .next s.respondOk) := by
  unfold execStop
  cases h : s.active <;> simp

/-- TU while idle. -/
theorem execTu_idle {s : State} (hw : s.WellFormed) (ha : s.active = false) :
    execTu s = .next s.quiet := by
  unfold execTu
  rw [if_neg (not_not.mpr hw), if_pos ha]

/-- TU within an interval. -/
theorem execTu_counts {s : State} (hw : s.WellFormed) (ha : s.active = true)
    (ht : 1 < s.tmr.toNat) : execTu s = .next { s.quiet with tmr := s.tmr - 1 } := by
  unfold execTu
  rw [if_neg (not_not.mpr hw), if_neg (by simp [ha]), if_pos ht]

/-- TU at the end of an interval: the tick, then the reload. -/
theorem execTu_ticks {s : State} (hw : s.WellFormed) (ha : s.active = true)
    (ht : s.tmr.toNat = 1) :
    execTu s = .next (s.tick s.frame[s.cursor]).reloadTimer := by
  have hf : s.TickFinds s.frame[s.cursor] :=
    ⟨hw, ha, BitVec.eq_of_toNat_eq (by simpa using ht), rfl⟩
  unfold execTu
  rw [if_neg (not_not.mpr hw), if_neg (by simp [ha]), if_neg (by omega), execCell_eq,
    execSymbol_of_finds hf]
  rfl

/-- Everything TU can do. -/
theorem execTu_cases (s : State) :
    (¬ s.WellFormed ∧ execTu s = .refused .illFormedState) ∨
    (s.WellFormed ∧ s.active = false ∧ execTu s = .next s.quiet) ∨
    (s.WellFormed ∧ s.active = true ∧ 1 < s.tmr.toNat ∧
      execTu s = .next { s.quiet with tmr := s.tmr - 1 }) ∨
    (s.WellFormed ∧ s.active = true ∧ s.tmr.toNat = 1 ∧
      execTu s = .next (s.tick s.frame[s.cursor]).reloadTimer) := by
  by_cases hw : s.WellFormed
  · by_cases ha : s.active = true
    · obtain ⟨-, h1, -⟩ := hw.2.1 ha
      by_cases ht : 1 < s.tmr.toNat
      · exact .inr (.inr (.inl ⟨hw, ha, ht, execTu_counts hw ha ht⟩))
      · exact .inr (.inr (.inr ⟨hw, ha, by omega, execTu_ticks hw ha (by omega)⟩))
    · have ha : s.active = false := by simpa using ha
      exact .inr (.inl ⟨hw, ha, execTu_idle hw ha⟩)
  · refine .inl ⟨hw, ?_⟩
    unfold execTu
    rw [if_pos hw]

/-- RESET. -/
theorem execReset_eq (s : State) : execReset s = .next { State.reset with pending := s.pending } := rfl

/-! ### Well-formed states (R20) -/

/-- Well-formedness looks at the eight registers only. -/
theorem State.WellFormed.congr {s t : State} (h : s.WellFormed) (hs : SameSession s t)
    (ho : SameHeldOutput s t) : t.WellFormed := by
  obtain ⟨a, b, c, d, e, f⟩ := hs
  obtain ⟨g, i⟩ := ho
  obtain ⟨w1, w2, w3, w4⟩ := h
  refine ⟨?_, ?_, ?_, ?_⟩
  · unfold State.IdleCanonical at *; rwa [← a, ← b, ← c, ← d, ← e, ← f]
  · unfold State.TimerInRange at *; rwa [← a, ← e, ← f]
  · unfold State.HeldOutputOk at *; rwa [← g, ← i]
  · unfold State.FrameFromEncoder at *; rwa [← a, ← b]

/-- The frame of a well-formed session, through its value. -/
theorem State.WellFormed.frame_eq {s : State} (h : s.WellFormed) (ha : s.active = true) :
    s.frame = toFrame (frameValue s.frame) :=
  (isEncoderFrame_iff _).mp (h.2.2.2 ha)

/-- The timer of a well-formed session. -/
theorem State.WellFormed.timer {s : State} (h : s.WellFormed) (ha : s.active = true) :
    1 ≤ s.rate.toNat ∧ 1 ≤ s.tmr.toNat ∧ s.tmr.toNat ≤ s.rate.toNat :=
  h.2.1 ha

/-! ### Rates -/

/-- R64: an effective rate is a 32-bit two's complement value or 200, so it is below 2^31. -/
theorem effectiveRate_lt (f : CommandFields) : effectiveRate f < 2 ^ 31 := by
  unfold effectiveRate
  split
  · have := @BitVec.toInt_lt 32 f.rate
    omega
  · decide

/-- R122: a positive effective rate is what RATE and TMR then hold. -/
theorem ofInt_toNat_of_rate {r : Int} (h0 : 0 < r) (h1 : r < 2 ^ 31) :
    ((BitVec.ofInt 31 r).toNat : Int) = r := by
  rw [BitVec.toNat_ofInt]
  omega

end Sys2Proof.Machine
end

