-- ==== Sys2Proof/Laws/PerInstr.lean ====
section
/-! SUPPORT. Facts of every instruction, one lemma for each constructor of `Instr`. -/

namespace Sys2Proof.Laws

/-- The number of bits of an encoding's format (R60, R75). -/
def formatWidth : Encoding → Nat
  | .command _ => 103
  | .symbol _ => 2
  | .tuPin _ => 1
  | .rstPin _ => 1

/-- The bits of an encoding as one number, bit 0 the least significant. -/
def formatBits : Encoding → Nat
  | .command w => w.toNat
  | .symbol c => c.toNat
  | .tuPin b => b.toNat
  | .rstPin b => b.toNat

/-- The encoding of an instruction has its row's format: the command rows are 103 bits wide with `op` in
the two top bits, the symbol rows 2 bits, the pin rows the one bit 1. -/
def RowFormat.Statement (i : Instr) : Prop :=
  match i with
  | .nop _ => formatWidth (encode i) = 103 ∧ formatBits (encode i) / 2 ^ 101 = 0
  | .enc _ => formatWidth (encode i) = 103 ∧ formatBits (encode i) / 2 ^ 101 = 1
  | .start _ => formatWidth (encode i) = 103 ∧ formatBits (encode i) / 2 ^ 101 = 2
  | .stop _ => formatWidth (encode i) = 103 ∧ formatBits (encode i) / 2 ^ 101 = 3
  | .zero => formatWidth (encode i) = 2 ∧ formatBits (encode i) = 0
  | .one => formatWidth (encode i) = 2 ∧ formatBits (encode i) = 1
  | .delimiter => formatWidth (encode i) = 2 ∧ formatBits (encode i) = 2
  | .terminator => formatWidth (encode i) = 2 ∧ formatBits (encode i) = 3
  | .tu => formatWidth (encode i) = 1 ∧ formatBits (encode i) = 1
  | .reset => formatWidth (encode i) = 1 ∧ formatBits (encode i) = 1

/-- The top two bits of an encoded command are its `op`. -/
theorem encodeCommand_div (op : BitVec 2) (f : CommandFields) :
    (encodeCommand op f).toNat / 2 ^ 101 = op.toNat := by
  have h := congrArg BitVec.toNat (opField_encodeCommand op f)
  rw [opField, BitVec.extractLsb'_toNat, Nat.shiftRight_eq_div_pow] at h
  have hlt := (encodeCommand op f).isLt
  omega

theorem RowFormat.nop (f : CommandFields) : RowFormat.Statement (.nop f) :=
  ⟨rfl, encodeCommand_div _ f⟩

theorem RowFormat.enc (f : CommandFields) : RowFormat.Statement (.enc f) :=
  ⟨rfl, encodeCommand_div _ f⟩

theorem RowFormat.start (f : CommandFields) : RowFormat.Statement (.start f) :=
  ⟨rfl, encodeCommand_div _ f⟩

theorem RowFormat.stop (f : CommandFields) : RowFormat.Statement (.stop f) :=
  ⟨rfl, encodeCommand_div _ f⟩

theorem RowFormat.zero : RowFormat.Statement .zero := ⟨rfl, rfl⟩

theorem RowFormat.one : RowFormat.Statement .one := ⟨rfl, rfl⟩

theorem RowFormat.delimiter : RowFormat.Statement .delimiter := ⟨rfl, rfl⟩

theorem RowFormat.terminator : RowFormat.Statement .terminator := ⟨rfl, rfl⟩

theorem RowFormat.tu : RowFormat.Statement .tu := ⟨rfl, rfl⟩

theorem RowFormat.reset : RowFormat.Statement .reset := ⟨rfl, rfl⟩

end Sys2Proof.Laws
end

