-- ==== Sys2Proof/Laws/Step.lean ====
section
/-! SUPPORT. What a step does with the pending events, and how stepping the host's machine unfolds. -/

namespace Sys2Proof.Machine

/-- With nothing pending a step is an idle one. -/
theorem step_nil {s : State} (h : s.pending = []) : step s = .next s.quiet := by
  simp [step, takeEvent, h]

/-- With an event pending a step takes it and runs its instruction. -/
theorem step_cons {s : State} {e : Event} {rest : List Event} (h : s.pending = e :: rest) :
    step s = applyEvent e { s with pending := rest } := by
  simp [step, takeEvent, h, applyEvent]

theorem execSymbol_pending (y : FrameSymbol) (s : State) (p : List Event) :
    execSymbol y { s with pending := p } =
      andThen (execSymbol y s) fun t => { t with pending := p } := by
  by_cases h : s.TickFinds y
  · rw [execSymbol_of_finds h, execSymbol_of_finds (s := { s with pending := p }) h]
    rfl
  · rw [execSymbol_of_not_finds h, execSymbol_of_not_finds (s := { s with pending := p }) h]
    rfl

theorem execTu_pending (s : State) (p : List Event) :
    execTu { s with pending := p } = andThen (execTu s) fun t => { t with pending := p } := by
  rcases execTu_cases s with ⟨h, e⟩ | ⟨hw, h, e⟩ | ⟨hw, ha, ht, e⟩ | ⟨hw, ha, ht, e⟩ <;> rw [e]
  · unfold execTu
    rw [if_pos h]
    rfl
  · rw [execTu_idle (s := { s with pending := p }) hw h]
    rfl
  · rw [execTu_counts (s := { s with pending := p }) hw ha ht]
    rfl
  · rw [execTu_ticks (s := { s with pending := p }) hw ha ht]
    rfl

theorem execStop_pending (s : State) (p : List Event) :
    execStop { s with pending := p } = andThen (execStop s) fun t => { t with pending := p } := by
  unfold execStop
  rw [apply_ite (fun r => andThen r fun t => { t with pending := p })]
  rfl

/-- No meaning looks at the pending events: they pass through every instruction. -/
theorem exec_pending (i : Instr) (s : State) (p : List Event) :
    exec i { s with pending := p } = andThen (exec i s) fun t => { t with pending := p } := by
  cases i with
  | nop f => rfl
  | enc f =>
    change execEnc f _ = andThen (execEnc f s) _
    unfold execEnc
    cases encodeText (textOf f) <;> rfl
  | start f =>
    change execStart f _ = andThen (execStart f s) _
    unfold execStart
    cases encodeText (textOf f) with
    | error e => rfl
    | ok r =>
      simp only
      cases startCheck s.active (effectiveRate f) <;> rfl
  | stop f => exact execStop_pending s p
  | zero => exact execSymbol_pending .zero s p
  | one => exact execSymbol_pending .one s p
  | delimiter => exact execSymbol_pending .delimiter s p
  | terminator => exact execSymbol_pending .terminator s p
  | tu => exact execTu_pending s p
  | reset => rfl

/-- The machine behind `Host.Core.run`, unfolded by one step. -/
theorem core_run_succ (M : Host.Core) (k : Nat) (s : M.State) :
    M.run (k + 1) s =
      (match M.step s with
        | .next t => M.run k t
        | .fault r => .fault r
        | .refused r => .refused r) := rfl

theorem core_run_next {k : Nat} {s t : State} (h : step s = .next t) :
    Host.Core.run Sys2Proof.core (k + 1) s = Host.Core.run Sys2Proof.core k t := by
  have h' : Sys2Proof.core.step s = .next t := h
  rw [core_run_succ Sys2Proof.core k s, h']

theorem core_run_refused {k : Nat} {s : State} {r : Refusal} (h : step s = .refused r) :
    Host.Core.run Sys2Proof.core (k + 1) s = .refused r := by
  have h' : Sys2Proof.core.step s = .refused r := h
  rw [core_run_succ Sys2Proof.core k s, h']

end Sys2Proof.Machine
end

