-- ==== Sys2Proof/Tests/Slice0.lean ====
section
/-! SUPPORT. The model's own tests. The expected values are the worked examples and vectors of
spec/30_encoding.md (rule R78) and spec/95_test_vectors.md, named in the docstrings; the witnesses show,
for every statement with hypotheses, states and operands that meet all of them. -/

namespace Sys2Proof.Tests

open Sys2Proof Sys2Proof.Machine

/-! ### Helpers -/

/-- The operand fields, in the order of the word. -/
def fields (rv : Bool) (len : BitVec 4) (chars : BitVec 64) (rate : BitVec 32) : CommandFields :=
  { rv := rv, idLen := len, idChars := chars, rate := rate }

/-- The operand `"abcde"` with a rate. -/
def abcde (rate : BitVec 32) : CommandFields := fields true 5 0x6162636465000000#64 rate

/-- The registers while a session plays the frame of `v`, nothing having been emitted. -/
def playing (v : IdBits) (cursor : Fin 41) (loops : BitVec 16) (rate tmr : TimeUnits) : State :=
  { State.reset with
    active := true, frame := toFrame v, cursor := cursor, loops := loops, rate := rate, tmr := tmr }

/-- The same registers with a symbol held on the output. -/
def holding (y : FrameSymbol) (s : State) : State := { s with symq := y, symqv := true }

/-- The result is a next state with this property. -/
def answers (r : Result) (p : State → Bool) : Bool :=
  match r with
  | .next t => p t
  | .fault _ => false
  | .refused _ => false

/-- The pins at an edge, in the order of R24. -/
def edge (rst tu cmdValid : Bool) (w : CommandWord) : Edge :=
  { rst := rst, tu := tu, cmdValid := cmdValid, cmdWord := w }

/-- What a true `answers` says. -/
theorem answers_iff (r : Result) (p : State → Bool) :
    answers r p = true ↔ ∃ t, r = .next t ∧ p t = true := by
  cases r with
  | next t => exact ⟨fun h => ⟨t, rfl, h⟩, fun ⟨_, h, hp⟩ => by cases h; exact hp⟩
  | fault f => exact ⟨fun h => by simp [answers] at h, fun ⟨_, h, _⟩ => by cases h⟩
  | refused f => exact ⟨fun h => by simp [answers] at h, fun ⟨_, h, _⟩ => by cases h⟩

/-- The response word of the event just taken. -/
def responseWord (s : State) : Option ResponseWord := s.out.rsp.map Response.word

/-- ACTIVE, CURSOR, LOOPS, RATE, TMR: the state columns of spec/95_test_vectors.md. -/
def columns (s : State) : Bool × Nat × Nat × Nat × Nat :=
  (s.active, s.cursor.val, s.loops.toNat, s.rate.toNat, s.tmr.toNat)

/-! ### Decoding: words written out from the encodings of R61, R62, R66 and R75 -/

/-- T27: the NOP word with every ignored field filled. -/
theorem test_decode_nop : decode (.command 0x1f6162636465666768ffffffff#103) =
    .ok (.nop (fields true 15 0x6162636465666768#64 0xFFFFFFFF#32)) := by decide +kernel

/-- S7: `enc "abcdg"`. -/
theorem test_decode_enc : decode (.command 0x25616263646700000000000000#103) =
    .ok (.enc (fields false 5 0x6162636467000000#64 0)) := by decide +kernel

/-- R78: `start "abcde", 200`. -/
theorem test_decode_start : decode (.command 0x556162636465000000000000c8#103) =
    .ok (.start (fields true 5 0x6162636465000000#64 200)) := by decide +kernel

/-- The START word of R61 with one bit set in each field, field by field from the top. -/
theorem test_decode_start_fields :
    decode (.command (BitVec.ofNat 103 (2 ^ 102 + 2 ^ 99 + 2 ^ 95 + 2 ^ 32 + 2 ^ 31))) =
      .ok (.start (fields false 8 0x8000000000000001#64 0x80000000#32)) := by decide +kernel

/-- T24: the STOP word with every ignored field filled. -/
theorem test_decode_stop : decode (.command 0x7f6162636465666768ffffffff#103) =
    .ok (.stop (fields true 15 0x6162636465666768#64 0xFFFFFFFF#32)) := by decide +kernel

/-- R66: the four symbol codes. -/
theorem test_decode_symbols :
    decode (.symbol 0b00#2) = .ok .zero ∧ decode (.symbol 0b01#2) = .ok .one ∧
      decode (.symbol 0b10#2) = .ok .delimiter ∧ decode (.symbol 0b11#2) = .ok .terminator := by
  decide

/-- R75: a pin at 1 is its event; a pin at 0 is none. -/
theorem test_decode_pins :
    decode (.tuPin 1#1) = .ok .tu ∧ decode (.rstPin 1#1) = .ok .reset ∧
      decode (.tuPin 0#1) = .error .pinLow ∧ decode (.rstPin 0#1) = .error .pinLow := by
  decide

/-- The numbering of spec/opcode_table.json; what is no word of a format is no instruction. -/
theorem test_decodeTableWord :
    decodeTableWord 104 0x60000000000000000000000000 = some (.stop (fields false 0 0 0)) ∧
      decodeTableWord 8 3 = some .terminator ∧ decodeTableWord 1 1 = some .tu ∧
      decodeTableWord 8 4 = none ∧ decodeTableWord 104 (2 ^ 103) = none ∧
      decodeTableWord 1 0 = none ∧ decodeTableWord 16 0 = none := by
  decide +kernel

/-- A placed command word runs next (T1), and so does a placed symbol. -/
theorem test_withFetchWord :
    answers (step (State.reset.withFetchWord 104 0x556162636465000000000000c8))
        (fun t => columns t == (true, 0, 0, 200, 200)) = true ∧
      answers (step (State.reset.withFetchWord 8 3))
        (fun t => t.out == .emission .terminator && t.loops == 1) = true := by
  decide +kernel

/-! ### Well-formed instructions: one term for each check, which the check refuses (R65) -/

theorem test_wf_refuses_nop_with_operands :
    (Instr.nop (fields true 0 0 0)).wellFormed = false ∧
      (Instr.nop (fields false 1 0 0)).wellFormed = false ∧
      (Instr.nop (fields false 0 1 0)).wellFormed = false ∧
      (Instr.nop (fields false 0 0 1)).wellFormed = false := by decide +kernel

theorem test_wf_refuses_stop_with_operands :
    (Instr.stop (fields true 0 0 0)).wellFormed = false ∧
      (Instr.stop (fields false 1 0 0)).wellFormed = false ∧
      (Instr.stop (fields false 0 1 0)).wellFormed = false ∧
      (Instr.stop (fields false 0 0 1)).wellFormed = false := by decide +kernel

/-- `rv`, `rate`, and a character in slot 5 of a five-character text. -/
theorem test_wf_refuses_enc_with_ignored_fields :
    (Instr.enc (fields true 5 0x6162636465000000#64 0)).wellFormed = false ∧
      (Instr.enc (fields false 5 0x6162636465000000#64 1)).wellFormed = false ∧
      (Instr.enc (fields false 5 0x6162636465670000#64 0)).wellFormed = false := by decide +kernel

/-- `rate` without `rv`, and a character in slot 5 of a five-character text. -/
theorem test_wf_refuses_start_with_ignored_fields :
    (Instr.start (fields false 5 0x6162636465000000#64 1)).wellFormed = false ∧
      (Instr.start (fields true 5 0x6162636465670000#64 200)).wellFormed = false := by decide +kernel

/-- R78: the canonical words are well-formed. -/
theorem test_wf_accepts_canonical :
    (Instr.nop (fields false 0 0 0)).wellFormed = true ∧
      (Instr.enc (fields false 5 0x6162636465000000#64 0)).wellFormed = true ∧
      (Instr.start (abcde 200)).wellFormed = true ∧
      (Instr.stop (fields false 0 0 0)).wellFormed = true ∧
      Instr.zero.wellFormed = true ∧ Instr.tu.wellFormed = true := by decide +kernel

/-! ### One event on a small state: spec/95_test_vectors.md -/

/-- T26, T27: a NOP with every field filled, during a session. -/
theorem test_nop_T27 :
    answers (applyEvent (.cmd 0x1f6162636465666768ffffffff#103) (playing 0xABCDE 17 3 200 57))
      (fun t => columns t == (true, 17, 3, 200, 57) && responseWord t == some 0) = true := by
  decide +kernel

/-- S2 with the ignored fields filled (spec/95_test_vectors.md section 4). -/
theorem test_enc_S2 :
    answers (applyEvent (.cmd 0x356162636465ffffff12345678#103) State.reset)
      (fun t => responseWord t == some 0x0389999899889999898989abcde#105 &&
        columns t == (false, 0, 0, 0, 0)) = true := by decide +kernel

/-- `enc len=4 "abcde"`: the length field is the length. -/
theorem test_enc_length_field :
    answers (applyEvent (.cmd 0x24616263646500000000000000#103) State.reset)
      (fun t => responseWord t == some 0x040000000000000000000000000#105) = true := by decide +kernel

/-- T3: no rate given, the rate field ignored; the frame of `abcde`, packed. -/
theorem test_start_T3 :
    answers (applyEvent (.cmd 0x456162636465000000ffffffff#103) State.reset)
      (fun t => columns t == (true, 0, 0, 200, 200) && responseWord t == some 0 &&
        packFrame t.frame == 0x389999899889999898989#82) = true := by decide +kernel

/-- T13: active and bad rate, AlreadyRunning before the rate. -/
theorem test_start_T13 :
    answers (applyEvent (.cmd 0x55303030303000000000000000#103) (playing 0xFFFFF 7 2 200 13))
      (fun t => columns t == (true, 7, 2, 200, 13) && t.frame == toFrame 0xFFFFF &&
        responseWord t == some 0x100000000000000000000000000#105) = true := by decide +kernel

/-- T21: STOP during a session; the held output stays. -/
theorem test_stop_T21 :
    answers (applyEvent (.cmd 0x60000000000000000000000000#103)
        (holding .terminator (playing 0xABCDE 17 3 200 57)))
      (fun t => columns t == (false, 0, 0, 0, 0) && t.frame == idleFrame && t.symq == .terminator &&
        t.symqv && responseWord t == some 0) = true := by decide +kernel

/-- T32: no tick yet. -/
theorem test_tu_T32 :
    answers (applyEvent .tu (playing 0xABCDE 0 0 200 2))
      (fun t => columns t == (true, 0, 0, 200, 1) && t.out == .silent && t.symqv == false) = true := by
  decide +kernel

/-- T38: LOOPS wraps, playback goes on. -/
theorem test_tu_T38 :
    answers (applyEvent .tu (playing 0x12345 40 65535 1 1))
      (fun t => columns t == (true, 0, 0, 1, 1) && t.out == .emission .terminator &&
        t.symq == .terminator) = true := by decide +kernel

/-- T40: bit 0 of `0xABCDE`, at index 38. -/
theorem test_zero_T40 :
    answers (exec .zero (playing 0xABCDE 38 0 1 1))
      (fun t => t.cursor == 39 && t.symq == .zero && t.out == .emission .zero) = true := by
  decide +kernel

/-- T33: the top bit of `0xABCDE`. -/
theorem test_one_T33 :
    answers (exec .one (playing 0xABCDE 0 0 200 1))
      (fun t => t.cursor == 1 && t.symq == .one && t.symqv && t.ports.rgb == 0x00FF00) = true := by
  decide +kernel

/-- T36: from 39 to 40 is not a wrap. -/
theorem test_delimiter_T36 :
    answers (exec .delimiter (playing 0xABCDE 39 0 200 1))
      (fun t => t.cursor == 40 && t.loops == 0 && t.symq == .delimiter) = true := by decide +kernel

/-- T37: the wrap. -/
theorem test_terminator_T37 :
    answers (exec .terminator (playing 0xABCDE 40 0 200 1))
      (fun t => t.cursor == 0 && t.loops == 1 && t.ports.rgb == 0xFF0000) = true := by decide +kernel

/-- T60: every register at its reset value. -/
theorem test_reset_T60 :
    answers (applyEvent .reset (holding .one (playing 0xABCDE 17 3 200 57)))
      (fun t => t == State.reset) = true := by decide +kernel

/-- T62: a TU and a STOP at one edge: the symbol and the response together, then idle. -/
theorem test_edge_T62 :
    answers (applyEdge (edge false true true 0x60000000000000000000000000#103)
        (playing 0xABCDE 1 0 2 1))
      (fun t => columns t == (false, 0, 0, 0, 0) && t.symq == .delimiter && t.symqv &&
        t.out.sym == some .delimiter && responseWord t == some 0) = true := by decide +kernel

/-- The rows of section 3 just inside and just outside the digit ranges. -/
theorem test_hexval :
    [0x2F, 0x30, 0x39, 0x3A, 0x40, 0x41, 0x46, 0x47, 0x60, 0x61, 0x66, 0x67].map
        (fun n => hexval (BitVec.ofNat 8 n)) =
      [none, some 0, some 9, none, none, some 10, some 15, none, none, some 10, some 15, none] := by
  decide +kernel

/-! ### Scripts (R77, R78) -/

/-- R78: `start "abcde", 200` and its word. -/
theorem test_script_start :
    (readLine (asciiBytes "start \"abcde\", 200".toList)).bind (expandLine State.reset) =
      some [.cmd 0x556162636465000000000000c8#103] := by decide +kernel

/-- T8: a negative rate; and a literal with a byte written in hexadecimal (section 3). -/
theorem test_script_literals :
    (readLine (asciiBytes "start \"abcde\", -2147483648".toList)).bind (expandLine State.reset) =
        some [.cmd 0x55616263646500000080000000#103] ∧
      (readLine (asciiBytes "enc \"abc\\xe9e\" ; high byte".toList)).bind (expandLine State.reset) =
        some [.cmd 0x25616263e96500000000000000#103] := by decide +kernel

/-- `enc len=15 "abcde"` (section 3), `tu * 2`, and a line that is none. -/
theorem test_script_forms :
    (readLine (asciiBytes "enc len=15 \"abcde\"".toList)).bind (expandLine State.reset) =
        some [.cmd 0x2f616263646500000000000000#103] ∧
      readLine (asciiBytes "tu * 2".toList) = some (.tuTimes 2) ∧
      readLine (asciiBytes "halt".toList) = none := by decide +kernel

/-- R78: `tick * 2` is `tu * (TMR + RATE)`. -/
theorem test_script_tick :
    expandLine (playing 0xABCDE 0 0 3 2) (.tickTimes 2) = some (List.replicate 5 .tu) := by
  decide +kernel

/-! ### Witnesses: states and operands that meet a statement's hypotheses -/

theorem witness_StepRunsDecodedEvent :
    ({ State.reset with pending := [.cmd 0x60000000000000000000000000#103, .tu] } : State).pending =
        .cmd 0x60000000000000000000000000#103 :: [.tu] ∧
      decode (Event.cmd 0x60000000000000000000000000#103).encoding =
        .ok (.stop (fields false 0 0 0)) := by decide +kernel

theorem witness_StepWithoutEventKeepsRegisters : State.reset.pending = [] := rfl

/-- At the first and at the last index. -/
theorem witness_TickExecutesSymbolAtCursor :
    ((playing 0xABCDE 0 0 200 1).WellFormed ∧ (playing 0xABCDE 0 0 200 1).active = true ∧
        (playing 0xABCDE 0 0 200 1).tmr = 1) ∧
      (playing 0xABCDE 40 65535 1 1).WellFormed ∧ (playing 0xABCDE 40 65535 1 1).tmr = 1 := by
  decide +kernel

/-- One word for each value of `op`. -/
theorem witness_OpFieldSelectsCommand :
    ((0x00#103).getLsbD 102 = false ∧ (0x00#103).getLsbD 101 = false) ∧
      ((0x20000000000000000000000000#103).getLsbD 102 = false ∧
        (0x20000000000000000000000000#103).getLsbD 101 = true) ∧
      ((0x40000000000000000000000000#103).getLsbD 102 = true ∧
        (0x40000000000000000000000000#103).getLsbD 101 = false) ∧
      (0x60000000000000000000000000#103).getLsbD 102 = true ∧
        (0x60000000000000000000000000#103).getLsbD 101 = true := by decide +kernel

theorem witness_EncodeInvertsDecode :
    decode (.command 0x7f6162636465666768ffffffff#103) =
        .ok (.stop (fields true 15 0x6162636465666768#64 0xFFFFFFFF#32)) ∧
      decode (.symbol 3#2) = .ok .terminator ∧ decode (.tuPin 1#1) = .ok .tu ∧
      decode (.rstPin 1#1) = .ok .reset := by decide +kernel

/-- A command in 103 and in 104 bits, and the pin. -/
theorem witness_PlacedCommandRunsNext :
    decodeTableWord 103 0x60000000000000000000000000 = some (.stop (fields false 0 0 0)) ∧
      decodeTableWord 104 0x60000000000000000000000000 = some (.stop (fields false 0 0 0)) ∧
      decodeTableWord 1 1 = some .tu := by decide +kernel

/-- Both widths, at the least and the greatest code. -/
theorem witness_PlacedSymbolRunsNext :
    (decodeTableWord 2 0 = some FrameSymbol.zero.instr ∧
        decodeTableWord 2 3 = some FrameSymbol.terminator.instr) ∧
      (decodeTableWord 8 0 = some FrameSymbol.zero.instr ∧
        decodeTableWord 8 3 = some FrameSymbol.terminator.instr) ∧
      State.reset.symqv = false ∧ State.reset.symq = .delimiter := by decide +kernel

theorem witness_SteppingIsRunningTheEvents :
    ({ State.reset with pending := [.tu, .reset, .tu] } : State).pending = [.tu, .reset] ++ [.tu] :=
  rfl

/-- The least and the greatest identifier, and a mixed one with a character beyond the length. -/
theorem witness_EncRespondsValueAndFrame :
    IdentifierValid (fields false 5 0x3030303030000000#64 0) ∧
      IdentifierValid (fields false 5 0x6666666666000000#64 0) ∧
      IdentifierValid (fields true 5 0x4162636445670000#64 7) := by decide +kernel

/-- Lengths 4 and 6, a bad character in slot 0 and in slot 4; and for the other clause a START that is
answered. -/
theorem witness_InvalidIdentifierCauses :
    (fields false 4 0x6162636465000000#64 0).idLen ≠ 5 ∧
      (fields false 6 0x6162636465660000#64 0).idLen ≠ 5 ∧
      hexval (slot (fields false 5 0x2F31323334000000#64 0) 0) = none ∧
      hexval (slot (fields false 5 0x6162636467000000#64 0) 4) = none ∧
      ((abcde 0).idLen = 5 ∧ (∀ j : Fin 8, j.val < 5 → hexval (slot (abcde 0) j) ≠ none) ∧
        answers (exec (.start (abcde 0)) State.reset)
          (fun t => t.out == .answer (.failed .invalidRate)) = true) := by decide +kernel

/-- Two operands with the same text that differ in `rv`, `rate` and an unused slot. -/
theorem witness_EncAnswerIndependentOfState :
    textOf (fields true 5 0x6162636465670000#64 9) = textOf (fields false 5 0x6162636465000000#64 0) := by
  decide +kernel

/-- `"ABCDE"` and `"abcde"`, and two texts with a letter that is no digit. -/
theorem witness_LetterCaseDoesNotMatter :
    (∀ j : Fin 8, j.val < 5 → lowerAscii (slot (fields true 5 0x4142434445000000#64 200) j) =
        lowerAscii (slot (abcde 200) j)) ∧
      (∀ j : Fin 8, j.val < 5 → lowerAscii (slot (fields true 5 0x5A31323334000000#64 200) j) =
        lowerAscii (slot (fields true 5 0x7A31323334000000#64 200) j)) := by decide +kernel

/-- The two sides of the sign boundary, and no rate. -/
theorem witness_EffectiveRateAssembly :
    ((abcde 0x7FFFFFFF#32).rv = true ∧ (abcde 0x7FFFFFFF#32).rate.toNat < 2 ^ 31) ∧
      ((abcde 0x80000000#32).rv = true ∧ 2 ^ 31 ≤ (abcde 0x80000000#32).rate.toNat) ∧
      (fields false 5 0 0xFFFFFFFF#32).rv = false := by decide +kernel

/-- The smallest and the largest rate (T4, T5). -/
theorem witness_StartBeginsSession :
    IdentifierValid (abcde 1) ∧ State.reset.active = false ∧ 0 < effectiveRate (abcde 1) ∧
      IdentifierValid (abcde 0x7FFFFFFF#32) ∧ 0 < effectiveRate (abcde 0x7FFFFFFF#32) := by
  decide +kernel

/-- One operand and state for each row of the table of R186, the rate at its boundary. -/
theorem witness_StartErrorPriority :
    ¬ IdentifierValid (fields true 5 0x6162636467000000#64 0) ∧
      (IdentifierValid (abcde 0) ∧ (playing 0xFFFFF 7 2 200 13).active = true) ∧
      (State.reset.active = false ∧ effectiveRate (abcde 0) ≤ 0) ∧
      1 ≤ effectiveRate (abcde 1) := by decide +kernel

theorem witness_StopEndsSession :
    (playing 0xABCDE 17 3 200 57).active = true ∧ State.reset.active = false := ⟨rfl, rfl⟩

theorem witness_RestartForgetsOldSession :
    (holding .one (playing 0xABCDE 17 3 200 57)).WellFormed ∧
      answers (exec (.stop (fields false 0 0 0)) (holding .one (playing 0xABCDE 17 3 200 57)))
        (fun _ => true) = true := by decide +kernel

theorem witness_FailedCommandChangesNothing :
    answers (exec (.start (abcde 1)) (playing 0xFFFFF 7 2 200 13))
      (fun t => match t.out.rsp with
        | some r => r.code != .ok
        | none => false) = true := by decide +kernel

theorem witness_OverflowNeverReported :
    2 ^ 20 ≤ 1048576 ∧
      answers (exec (.enc (abcde 0)) State.reset) (fun t => t.out.rsp.isSome) = true := by
  decide +kernel

/-- The boundary itself: 2^20 and 2^20 - 1. -/
theorem witness_ToBitVectorBoundary : 2 ^ 20 ≤ 1048576 ∧ 1048575 < 2 ^ 20 := by decide

/-- Idle, TMR at 2, TMR at 1 (at index 40 and below it). -/
theorem witness_TuCountsAndTicks :
    (State.reset.WellFormed ∧ State.reset.active = false) ∧
      ((playing 0xABCDE 0 0 200 2).WellFormed ∧ 1 < (playing 0xABCDE 0 0 200 2).tmr.toNat) ∧
      ((playing 0xABCDE 39 0 200 1).WellFormed ∧ (playing 0xABCDE 39 0 200 1).tmr.toNat = 1) ∧
      (playing 0xABCDE 40 65535 200 1).WellFormed ∧
        (playing 0xABCDE 40 65535 200 1).tmr.toNat = 1 := by
  refine ⟨⟨?_, ?_⟩, ⟨?_, ?_⟩, ⟨?_, ?_⟩, ?_, ?_⟩ <;> decide +kernel

/-- Each clause of R20 broken in turn. -/
theorem witness_TuRefusesIllFormedState :
    ¬ ({ State.reset with cursor := 1 } : State).WellFormed ∧
      ¬ (playing 0xABCDE 0 0 200 0).WellFormed ∧ ¬ (playing 0xABCDE 0 0 1 2).WellFormed ∧
      ¬ ({ State.reset with symq := .one } : State).WellFormed ∧
      ¬ ({ playing 0xABCDE 0 0 200 1 with frame := idleFrame } : State).WellFormed := by
  refine ⟨?_, ?_, ?_, ?_, ?_⟩ <;> decide +kernel

/-- The first and the last data bit. -/
theorem witness_ZeroEmittedForZeroBit :
    ((playing 0x12345 0 0 200 1).WellFormed ∧ (playing 0x12345 0 0 200 1).cursor.val = 2 * 0 ∧
        (0x12345#20).getLsbD (19 - 0) = false) ∧
      (playing 0xABCDE 38 0 200 1).WellFormed ∧ (playing 0xABCDE 38 0 200 1).cursor.val = 2 * 19 ∧
        (0xABCDE#20).getLsbD (19 - 19) = false := by decide +kernel

theorem witness_OneEmittedForOneBit :
    ((playing 0xABCDE 0 0 200 1).WellFormed ∧ (playing 0xABCDE 0 0 200 1).cursor.val = 2 * 0 ∧
        (0xABCDE#20).getLsbD (19 - 0) = true) ∧
      (playing 0x12345 38 0 200 1).WellFormed ∧ (playing 0x12345 38 0 200 1).cursor.val = 2 * 19 ∧
        (0x12345#20).getLsbD (19 - 19) = true := by decide +kernel

theorem witness_DelimiterEmittedAtOddIndex :
    ((playing 0xABCDE 1 0 200 1).WellFormed ∧ (playing 0xABCDE 1 0 200 1).cursor.val % 2 = 1) ∧
      (playing 0xABCDE 39 0 200 1).WellFormed ∧
        (playing 0xABCDE 39 0 200 1).cursor.val % 2 = 1 := by decide +kernel

/-- The tick at index 40, LOOPS at its top; and a symbol's and a TU's next state with LOOPS changed and
CURSOR wrapped. -/
theorem witness_TerminatorWrapsAndCounts :
    ((playing 0xABCDE 40 65535 200 1).WellFormed ∧ (playing 0xABCDE 40 65535 200 1).active = true ∧
        (playing 0xABCDE 40 65535 200 1).tmr = 1 ∧ (playing 0xABCDE 40 65535 200 1).cursor = 40) ∧
      answers (exec FrameSymbol.terminator.instr (playing 0xABCDE 40 65535 200 1))
        (fun t => t.loops != 65535 && t.cursor.val != 41) = true ∧
      answers (exec .tu (playing 0xABCDE 40 65535 200 1))
        (fun t => t.loops != 65535 && t.cursor != 40 && t.cursor.val != 41) = true := by
  refine ⟨⟨?_, rfl, rfl, rfl⟩, ?_, ?_⟩ <;> decide +kernel

/-- Idle; a session whose timer does not fire; a session whose cell holds another symbol. -/
theorem witness_SymbolElsewhereRefused :
    ¬ State.reset.TickFinds .zero ∧ ¬ (playing 0xABCDE 0 0 200 2).TickFinds .one ∧
      ¬ (playing 0xABCDE 0 0 200 1).TickFinds .zero := by
  refine ⟨?_, ?_, ?_⟩ <;> decide +kernel

/-- One time unit short of the tick, and the tick, with a command in between. -/
theorem witness_NextTickAfterExactlyTmrUnits :
    (playing 0xABCDE 40 0 200 2).WellFormed ∧ (playing 0xABCDE 40 0 200 2).active = true ∧
      (∀ e ∈ [Event.tu, .cmd 0, .tu], keepsSession e = true) ∧
      countTu [.tu] < (playing 0xABCDE 40 0 200 2).tmr.toNat ∧
      countTu [.tu, .cmd 0, .tu] = (playing 0xABCDE 40 0 200 2).tmr.toNat := by decide +kernel

theorem witness_SessionClosedForm :
    State.reset.WellFormed ∧
      answers (exec (.start (abcde 3)) State.reset) (fun t => t.out == .answer .ok) = true ∧
      (∀ e ∈ [Event.tu, .cmd 0, .tu, .cmd 0x25616263646500000000000000#103, .tu],
        keepsSession e = true) := by decide +kernel

theorem witness_SessionEmitsFrameInOrder :
    State.reset.WellFormed ∧
      answers (exec (.start (abcde 0x7FFFFFFF#32)) State.reset) (fun t => t.out == .answer .ok) = true ∧
      (∀ e ∈ [Event.tu, .cmd 0x45303030303000000000000000#103, .tu], keepsSession e = true) := by
  decide +kernel

/-- Time, a failing START and another STOP after the STOP. -/
theorem witness_NoEmissionAfterStop :
    (playing 0xABCDE 1 0 2 1).WellFormed ∧
      (∀ e ∈ [Event.tu, .cmd 0x55616263646700000000000000#103, .tu,
        .cmd 0x60000000000000000000000000#103, .tu, .reset], beginsFromIdle e = false) := by
  decide +kernel

/-- Across the wrap. -/
theorem witness_ConsecutiveEmissionsDiffer :
    (playing 0xABCDE 39 0 1 1).WellFormed ∧ (playing 0xABCDE 39 0 1 1).active = true ∧
      (∀ e ∈ [Event.tu, .tu, .tu], keepsSession e = true) := by decide +kernel

theorem witness_StepKeepsWellFormed :
    ({ playing 0xABCDE 40 65535 1 1 with pending := [.tu] } : State).WellFormed ∧
      answers (step { playing 0xABCDE 40 65535 1 1 with pending := [.tu] })
        (fun t => t.out == .emission .terminator) = true := by decide +kernel

theorem witness_EveryEventCompletes : (holding .one (playing 0xABCDE 40 65535 200 200)).WellFormed := by
  decide +kernel

theorem witness_IdleStateIsCanonical :
    State.reset.WellFormed ∧ (holding .terminator State.reset).WellFormed ∧
      State.reset.active = false ∧ (holding .terminator State.reset).active = false := by
  decide +kernel

/-- A command, a TU with and without a tick, a RESET. -/
theorem witness_OutputsByEvent :
    answers (applyEvent (.cmd 0) State.reset) (fun _ => true) = true ∧
      answers (applyEvent .tu (playing 0xABCDE 0 0 200 1)) (fun _ => true) = true ∧
      answers (applyEvent .tu (playing 0xABCDE 0 0 200 2)) (fun _ => true) = true ∧
      answers (applyEvent .reset State.reset) (fun _ => true) = true := by decide +kernel

theorem witness_OneResponsePerCommand : (playing 0xABCDE 0 0 2 1).WellFormed := by decide +kernel

/-- An event without an emission and one with. -/
theorem witness_HeldOutputFollowsEmissions :
    answers (applyEvent .tu (playing 0xABCDE 0 0 200 2)) (fun t => t.out.sym == none) = true ∧
      answers (applyEvent .tu (playing 0xABCDE 0 0 200 1)) (fun t => t.out.sym == some .one) = true := by
  decide +kernel

/-- A START that changes the session. -/
theorem witness_OnlyTheseEventsChangeSession :
    answers (applyEvent (.cmd 0x556162636465000000000000c8#103) State.reset)
      (fun t => t.active != State.reset.active) = true := by decide +kernel

/-- A START that sets ACTIVE and writes a frame. -/
theorem witness_OnlyStartWritesFrame :
    answers (exec (.start (abcde 200)) State.reset)
      (fun t => State.reset.active == false && t.active && t.frame != State.reset.frame &&
        t.frame != idleFrame) = true := by decide +kernel

/-- The ends of each range, and a byte in each gap. -/
theorem witness_HexDigitValues :
    (0x30 ≤ (0x39#8).toNat ∧ (0x39#8).toNat ≤ 0x39) ∧ (0x41 ≤ (0x46#8).toNat ∧ (0x46#8).toNat ≤ 0x46) ∧
      (0x61 ≤ (0x66#8).toNat ∧ (0x66#8).toNat ≤ 0x66) ∧ (0x2F#8).toNat < 0x30 ∧
      (0x39 < (0x3A#8).toNat ∧ (0x40#8).toNat < 0x41) ∧
      (0x46 < (0x47#8).toNat ∧ (0x60#8).toNat < 0x61) ∧ 0x66 < (0x67#8).toNat := by decide

theorem witness_FrameDeterminesValue : toFrame 0xABCDE = toFrame (703710 : IdBits) := by decide +kernel

theorem witness_EncoderFrameIsUnique :
    isEncoderFrame (toFrame 0xABCDE) = true ∧ isEncoderFrame idleFrame = false := by decide +kernel

theorem witness_MuxGivesFrameCell :
    (playing 0xABCDE 40 0 200 1).WellFormed ∧ (playing 0xABCDE 40 0 200 1).active = true := by
  decide +kernel

/-- Each symbol held, an event that emits and one that does not. -/
theorem witness_PortsShowSymbolAndColour :
    (holding .zero State.reset).symq = .zero ∧ (holding .one State.reset).symq = .one ∧
      State.reset.symq = .delimiter ∧ (holding .terminator State.reset).symq = .terminator ∧
      State.reset.out.sym = none ∧
      ({ State.reset with out := .emission .one } : State).out.sym = some .one := by decide

/-- An edge for each clause, in a session whose timer fires at it. -/
theorem witness_EdgeTakesTuBeforeCommand :
    (playing 0xABCDE 1 0 2 1).WellFormed ∧
      [(edge true true true 0).events, (edge false true true 0).events,
        (edge false true false 0).events, (edge false false true 0).events,
        (edge false false false 0).events] =
      [[.reset], [.tu, .cmd 0], [.tu], [.cmd 0], []] := by decide +kernel

theorem witness_InstancesShareNothing :
    ∃ sys', applyAt 0 .tu [State.reset, playing 0xABCDE 0 0 200 1] = .next sys' ∧ (1 : Nat) ≠ 0 := by
  refine ⟨_, rfl, by decide⟩

theorem witness_AssemblerWordsAreCanonical :
    (expandLine State.reset
      (.restart (asciiBytes ['a', 'b', 'c', 'd', 'e']) (some (-1)))).isSome = true ∧
    (expandLine State.reset (.enc none [])).isSome = true := by decide +kernel

/-- A session; its `tick * 0` and its `tick * 1`, one at each side of the clauses' boundary. -/
theorem witness_TickScriptEmitsExactly :
    (playing 0xABCDE 40 0 3 2).WellFormed ∧ (playing 0xABCDE 40 0 3 2).active = true ∧
      expandLine (playing 0xABCDE 40 0 3 2) (.tickTimes 0) = some [] ∧
      expandLine (playing 0xABCDE 40 0 3 2) (.tickTimes 1) = some [.tu, .tu] := by
  decide +kernel

end Sys2Proof.Tests
end

/-! SUPPORT and proofs of the family of spec/10_state.md. First the rules: what the frame test means,
which updates keep a state well-formed, and that no meaning reads the output of the last event. Then the
two simulations that use them, the mux design and the clock edge. -/

namespace Sys2Proof.Machine

/-! ### A frame determines its value (R105) -/

/-- The data cell of bit `19 - i` holds ONE exactly when the bit is set (R98, R99). -/
theorem toFrame_data_eq_one (v : IdBits) (i : Fin 20) :
    (toFrame v)[2 * i.val]'(by omega) = .one ↔ v.toNat.testBit (19 - i.val) = true := by
  have heven : (⟨2 * i.val, by omega⟩ : Fin 41).val % 2 = 0 := Nat.mul_mod_right 2 i.val
  rw [toFrame_getElem, frameCell_even v heven (by simp; omega), symOfBit,
    Nat.mul_div_cancel_left _ Nat.two_pos, BitVec.testBit_toNat]
  cases v.getLsbD (19 - i.val) <;> simp

/-- R105: a data cell's term in the sum is its bit at its place. -/
theorem sumOnes_toFrame_cons (v : IdBits) (i : Fin 20) (rest : List (Fin 20)) :
    sumOnes (toFrame v) (i :: rest) =
      2 ^ (19 - i.val) * (v.toNat.testBit (19 - i.val)).toNat + sumOnes (toFrame v) rest := by
  simp only [sumOnes, toFrame_data_eq_one]
  cases v.toNat.testBit (19 - i.val) <;> simp

/-- The last `k` terms of the sum of R105 are the low `k` bits of the value. -/
theorem sumOnes_toFrame_drop (v : IdBits) (k : Nat) (hk : k ≤ 20) :
    sumOnes (toFrame v) ((List.finRange 20).drop (20 - k)) = v.toNat % 2 ^ k := by
  induction k with
  | zero => rw [List.drop_of_length_le (by simp), sumOnes, pow_zero, Nat.mod_one]
  | succ k ih =>
    have hlt : 20 - (k + 1) < (List.finRange 20).length := by simp; omega
    have hbit : 19 - ((List.finRange 20)[20 - (k + 1)]).val = k := by simp; omega
    rw [List.drop_eq_getElem_cons hlt, show 20 - (k + 1) + 1 = 20 - k by omega,
      sumOnes_toFrame_cons, hbit, ih (by omega), Nat.mod_pow_succ, Nat.toNat_testBit, Nat.add_comm]

/-- R105: the value read from a frame is the value it was made from. -/
theorem frameValue_toFrame (v : IdBits) : frameValue (toFrame v) = v := by
  have hsum := sumOnes_toFrame_drop v 20 le_rfl
  rw [Nat.sub_self, List.drop_zero] at hsum
  rw [frameValue, hsum, Nat.mod_eq_of_lt v.isLt, BitVec.ofNat_toNat, BitVec.setWidth_eq]

/-- Every frame the Encoder makes passes the frame test. -/
theorem isEncoderFrame_toFrame (v : IdBits) : isEncoderFrame (toFrame v) = true := by
  rw [isEncoderFrame_iff, frameValue_toFrame]

/-- Settles O51: the value of the frame is the one the test itself reads off, and no other has it. -/
theorem encoderFrameIsUnique : Obligations.EncoderFrameIsUnique := by
  intro f
  rw [isEncoderFrame_iff]
  constructor
  · intro hf
    refine ⟨frameValue f, hf, fun w hw => ?_⟩
    rw [hw, frameValue_toFrame]
  · rintro ⟨v, rfl, -⟩
    rw [frameValue_toFrame]

/-! ### Which updates keep a state well-formed (R20) -/

/-- With a session, only the timer, the held output and the frame are constrained. -/
theorem State.wellFormed_of_active {s : State} (ha : s.active = true)
    (htmr : 1 ≤ s.tmr.toNat ∧ s.tmr.toNat ≤ s.rate.toNat) (hheld : s.HeldOutputOk)
    (hframe : isEncoderFrame s.frame = true) : s.WellFormed :=
  ⟨fun hi => absurd (ha.symm.trans hi) (by decide),
    fun _ => ⟨htmr.1.trans htmr.2, htmr.1, htmr.2⟩, hheld, fun _ => hframe⟩

theorem State.WellFormed.with_out {s : State} (h : s.WellFormed) (o : Output) :
    ({ s with out := o } : State).WellFormed :=
  h.congr ⟨rfl, rfl, rfl, rfl, rfl, rfl⟩ ⟨rfl, rfl⟩

theorem State.WellFormed.with_pending {s : State} (h : s.WellFormed) (p : List Event) :
    ({ s with pending := p } : State).WellFormed :=
  h.congr ⟨rfl, rfl, rfl, rfl, rfl, rfl⟩ ⟨rfl, rfl⟩

theorem State.wellFormed_reset : State.reset.WellFormed := by
  simp [State.WellFormed, State.IdleCanonical, State.TimerInRange, State.HeldOutputOk,
    State.FrameFromEncoder]

/-- R122: a session begun at a rate START accepts. -/
theorem State.WellFormed.beginSession {s : State} (h : s.WellFormed) (v : IdBits) {r : Int}
    (h0 : 0 < r) (h1 : r < 2 ^ 31) : (s.beginSession (toFrame v) r).WellFormed := by
  have hr := ofInt_toNat_of_rate h0 h1
  obtain ⟨-, -, hheld, -⟩ := h
  refine State.wellFormed_of_active rfl ?_ ?_ (isEncoderFrame_toFrame v)
  · rw [State.beginSession_tmr, State.beginSession_rate]
    omega
  · simpa [State.HeldOutputOk] using hheld

/-- R127: STOP leaves the idle values. -/
theorem State.WellFormed.endSession {s : State} (h : s.WellFormed) : s.endSession.WellFormed := by
  obtain ⟨-, -, hheld, -⟩ := h
  exact ⟨fun _ => ⟨rfl, rfl, rfl, rfl, rfl⟩, nofun, hheld, nofun⟩

/-- R131: a tick during a session; it sets SYMQV, so the held output is unconstrained. -/
theorem State.WellFormed.tick {s : State} (h : s.WellFormed) (ha : s.active = true)
    (y : FrameSymbol) : (s.tick y).WellFormed := by
  obtain ⟨-, htmr, -, hframe⟩ := h
  exact State.wellFormed_of_active ha (htmr ha).2 nofun (hframe ha)

/-- R130: the reload puts TMR at RATE. -/
theorem State.WellFormed.reloadTimer {s : State} (h : s.WellFormed) (ha : s.active = true) :
    s.reloadTimer.WellFormed := by
  obtain ⟨-, htmr, hheld, hframe⟩ := h
  exact State.wellFormed_of_active ha ⟨(htmr ha).1, le_rfl⟩ hheld (hframe ha)

/-- R130: within an interval the timer stays at 1 or above. -/
theorem State.WellFormed.countDown {s : State} (h : s.WellFormed) (ha : s.active = true)
    (ht : 1 < s.tmr.toNat) : ({ s.quiet with tmr := s.tmr - 1 } : State).WellFormed := by
  obtain ⟨-, htmr, hheld, hframe⟩ := h
  obtain ⟨-, -, hle⟩ := htmr ha
  have hsub : (s.tmr - 1).toNat = s.tmr.toNat - 1 :=
    BitVec.toNat_sub_of_le (BitVec.le_def.mpr (by simpa using ht.le))
  refine State.wellFormed_of_active ha ?_ hheld (hframe ha)
  change 1 ≤ (s.tmr - 1).toNat ∧ (s.tmr - 1).toNat ≤ s.rate.toNat
  omega

/-! ### Every instruction keeps a state well-formed (R20) -/

theorem execSymbol_keeps_wellFormed {y : FrameSymbol} {s t : State} (h : execSymbol y s = .next t) :
    t.WellFormed := by
  obtain ⟨⟨hw, ha, -, -⟩, rfl⟩ := execSymbol_eq_next h
  exact hw.tick ha y

theorem execEnc_keeps_wellFormed {f : CommandFields} {s t : State} (hw : s.WellFormed)
    (h : execEnc f s = .next t) : t.WellFormed := by
  rcases execEnc_cases f s with ⟨-, e⟩ | e <;> rw [e] at h <;> cases h
  · exact hw.with_out _
  · exact hw.with_out _

theorem execStart_keeps_wellFormed {f : CommandFields} {s t : State} (hw : s.WellFormed)
    (h : execStart f s = .next t) : t.WellFormed := by
  rcases execStart_cases f s with ⟨-, -, hr, e⟩ | ⟨_, -, e⟩ <;> rw [e] at h <;> cases h
  · exact (hw.beginSession _ hr (effectiveRate_lt f)).with_out _
  · exact hw.with_out _

theorem execStop_keeps_wellFormed {s t : State} (hw : s.WellFormed) (h : execStop s = .next t) :
    t.WellFormed := by
  rcases execStop_cases s with ⟨-, e⟩ | ⟨-, e⟩ <;> rw [e] at h <;> cases h
  · exact hw.endSession.with_out _
  · exact hw.with_out _

theorem execTu_keeps_wellFormed {s t : State} (h : execTu s = .next t) : t.WellFormed := by
  rcases execTu_cases s with ⟨-, e⟩ | ⟨hw, -, e⟩ | ⟨hw, ha, ht, e⟩ | ⟨hw, ha, -, e⟩ <;>
    rw [e] at h <;> cases h
  case inr.inl => exact hw.with_out _
  case inr.inr.inl => exact hw.countDown ha ht
  case inr.inr.inr => exact (hw.tick ha _).reloadTimer ha

/-- The invariant step of R20, one case for each row of the opcode table. -/
theorem exec_keeps_wellFormed {i : Instr} {s t : State} (hw : s.WellFormed)
    (h : exec i s = .next t) : t.WellFormed := by
  cases i with
  | nop f => cases h; exact hw.with_out _
  | enc f => exact execEnc_keeps_wellFormed hw h
  | start f => exact execStart_keeps_wellFormed hw h
  | stop f => exact execStop_keeps_wellFormed hw h
  | zero => exact execSymbol_keeps_wellFormed (y := .zero) h
  | one => exact execSymbol_keeps_wellFormed (y := .one) h
  | delimiter => exact execSymbol_keeps_wellFormed (y := .delimiter) h
  | terminator => exact execSymbol_keeps_wellFormed (y := .terminator) h
  | tu => exact execTu_keeps_wellFormed h
  | reset => cases h; exact State.wellFormed_reset.with_pending _

/-- Settles O39: an idle step changes the output only, and any other runs one instruction. -/
theorem stepKeepsWellFormed : Obligations.StepKeepsWellFormed := by
  intro s t hw h
  cases hp : s.pending with
  | nil =>
    rw [step_nil hp] at h
    cases h
    exact hw.with_out _
  | cons e rest =>
    rw [step_cons hp] at h
    exact exec_keeps_wellFormed (hw.with_pending rest) h

/-- Settles O2. -/
theorem stepWithoutEventKeepsRegisters : Obligations.StepWithoutEventKeepsRegisters :=
  fun _ h => step_nil h

/-- Settles O41: item 1 of R20 gives both states the same values. -/
theorem idleStateIsCanonical : Obligations.IdleStateIsCanonical := by
  rintro s t ⟨hs, -⟩ ⟨ht, -⟩ has hat
  obtain ⟨sframe, scursor, sloops, srate, stmr⟩ := hs has
  obtain ⟨tframe, tcursor, tloops, trate, ttmr⟩ := ht hat
  exact ⟨has.trans hat.symm, sframe.trans tframe.symm, scursor.trans tcursor.symm,
    sloops.trans tloops.symm, srate.trans trate.symm, stmr.trans ttmr.symm⟩

/-! ### The answer of ENC (R103, R104) -/

/-- What ENC puts out for a text: the value and the packed frame, or the Encoder's error. -/
def encAnswer (x : Text) : Output :=
  match encodeText x with
  | .error e => .answer (.failed e)
  | .ok (v, fr) => { sym := none, rsp := some { code := .ok, frame := packFrame fr, val := v } }

/-- ENC is its answer, in every state. -/
theorem execEnc_eq_encAnswer (f : CommandFields) (s : State) :
    execEnc f s = .next { s with out := encAnswer (textOf f) } := by
  unfold execEnc encAnswer
  cases encodeText (textOf f) <;> rfl

/-- Settles O14: the answer of either operand is that of the one text. -/
theorem encAnswerIndependentOfState : Obligations.EncAnswerIndependentOfState := by
  intro f g hfg
  refine ⟨encAnswer (textOf f), execEnc_eq_encAnswer f, ?_⟩
  rw [hfg]
  exact execEnc_eq_encAnswer g

/-! ### What an event can answer (R146, R192) -/

/-- R62: a command word is one of the four commands. -/
theorem decodeCommand_cases (w : CommandWord) :
    ∃ f, decodeCommand w = .nop f ∨ decodeCommand w = .enc f ∨ decodeCommand w = .start f ∨
      decodeCommand w = .stop f := by
  refine ⟨operandFields w, ?_⟩
  unfold decodeCommand
  split_ifs <;> simp

/-- R146: a command completes in every state and emits nothing. -/
theorem applyEvent_cmd_next (w : CommandWord) (s : State) :
    ∃ t, applyEvent (.cmd w) s = .next t ∧ t.out.sym = none := by
  change ∃ t, exec (decodeCommand w) s = .next t ∧ t.out.sym = none
  obtain ⟨f, e | e | e | e⟩ := decodeCommand_cases w <;> rw [e]
  case inl => exact ⟨_, rfl, rfl⟩
  case inr.inl =>
    rcases execEnc_cases f s with ⟨-, h⟩ | h
    · exact ⟨_, h, rfl⟩
    · exact ⟨_, h, rfl⟩
  case inr.inr.inl =>
    rcases execStart_cases f s with ⟨-, -, -, h⟩ | ⟨_, -, h⟩
    · exact ⟨_, h, rfl⟩
    · exact ⟨_, h, rfl⟩
  case inr.inr.inr =>
    rcases execStop_cases s with ⟨-, h⟩ | ⟨-, h⟩
    · exact ⟨_, h, rfl⟩
    · exact ⟨_, h, rfl⟩

/-- R146: a TU completes in a well-formed state and never responds. -/
theorem applyEvent_tu_next {s : State} (hw : s.WellFormed) :
    ∃ t, applyEvent .tu s = .next t ∧ t.out.rsp = none := by
  rcases execTu_cases s with ⟨hn, -⟩ | ⟨-, -, e⟩ | ⟨-, -, -, e⟩ | ⟨-, -, -, e⟩
  · exact absurd hw hn
  · exact ⟨_, e, rfl⟩
  · exact ⟨_, e, rfl⟩
  · exact ⟨_, e, rfl⟩

/-- R192: every event completes in a well-formed state. -/
theorem applyEvent_next (e : Event) {s : State} (hw : s.WellFormed) :
    ∃ t, applyEvent e s = .next t := by
  cases e with
  | reset => exact ⟨_, rfl⟩
  | tu => exact (applyEvent_tu_next hw).imp fun _ h => h.1
  | cmd w => exact (applyEvent_cmd_next w s).imp fun _ h => h.1

theorem runEvents_cons_next {e : Event} {rest : List Event} {s t : State}
    (h : applyEvent e s = .next t) : runEvents (e :: rest) s = runEvents rest t := by
  simp only [runEvents, h]

theorem traceEvents_cons_next {e : Event} {rest : List Event} {s t : State}
    (h : applyEvent e s = .next t) :
    traceEvents (e :: rest) s = t.out :: traceEvents rest t := by
  simp only [traceEvents, h]

theorem observe_cons_next {e : Event} {rest : List Event} {s t : State}
    (h : applyEvent e s = .next t) : observe (e :: rest) s = t.ports :: observe rest t := by
  simp only [observe, h]

/-! ### The mux design simulates the model (R11, R137) -/

/-- What the mux design holds where the model is in state `s`: the frame's value in the frame's place,
and 0 without a session. -/
def State.toMux (s : State) : MuxState :=
  { active := s.active
    bv := if s.active then frameValue s.frame else 0
    cursor := s.cursor
    loops := s.loops
    rate := s.rate
    tmr := s.tmr
    symq := s.symq
    symqv := s.symqv
    out := s.out }

theorem State.toMux_active (s : State) : s.toMux.active = s.active := rfl

theorem State.toMux_tmr (s : State) : s.toMux.tmr = s.tmr := rfl

theorem State.toMux_bv_of_active {s : State} (ha : s.active = true) :
    s.toMux.bv = frameValue s.frame := if_pos ha

theorem State.toMux_reset : State.reset.toMux = muxReset := rfl

/-- FRAME, which the mux design lacks, has no port (R22). -/
theorem State.ports_toMux (s : State) : s.toMux.ports = s.ports := rfl

theorem State.toMux_respond (s : State) (c : ResponseCode) (v : IdBits) (p : PackedFrame) :
    (s.respond c v p).toMux = muxRespond s.toMux c v p := rfl

/-- R122: the mux design keeps the value whose frame the model stores. -/
theorem State.toMux_beginSession (s : State) (v : IdBits) (r : Int) :
    (s.beginSession (toFrame v) r).toMux =
      { s.toMux with
        active := true
        bv := v
        cursor := 0
        loops := 0
        rate := BitVec.ofInt 31 r
        tmr := BitVec.ofInt 31 r } := by
  simp [State.toMux, frameValue_toFrame]

/-- R137: in a session the mux makes the symbol that the frame cell holds. -/
theorem muxSymbol_toMux {s : State} (hw : s.WellFormed) (ha : s.active = true) :
    muxSymbol s.toMux.bv s.cursor = s.frame[s.cursor] := by
  rw [State.toMux_bv_of_active ha]
  conv_rhs => rw [hw.frame_eq ha, toFrame_getElem_fin]
  rfl

/-- R131: the ticks of the two designs, reload included. -/
theorem muxTick_toMux {s : State} (hw : s.WellFormed) (ha : s.active = true) :
    muxTick s.toMux = (s.tick s.frame[s.cursor]).reloadTimer.toMux := by
  rw [← muxSymbol_toMux hw ha]
  rfl

theorem muxTu_toMux {s t : State} (h : execTu s = .next t) : muxTu s.toMux = t.toMux := by
  unfold muxTu
  rw [State.toMux_active, State.toMux_tmr]
  rcases execTu_cases s with ⟨-, e⟩ | ⟨-, ha, e⟩ | ⟨-, ha, ht, e⟩ | ⟨hw, ha, ht, e⟩ <;>
    rw [e] at h <;> cases h
  case inr.inl =>
    rw [if_pos ha]
    rfl
  case inr.inr.inl =>
    rw [if_neg (by simp [ha]), if_pos ht]
    rfl
  case inr.inr.inr => rw [if_neg (by simp [ha]), if_neg (by omega), muxTick_toMux hw ha]

theorem muxEnc_toMux {f : CommandFields} {s t : State} (h : execEnc f s = .next t) :
    muxEnc f s.toMux = t.toMux := by
  unfold execEnc at h
  unfold muxEnc
  cases hx : encodeText (textOf f) <;> rw [hx] at h <;> cases h <;> rfl

theorem muxStart_toMux {f : CommandFields} {s t : State} (h : execStart f s = .next t) :
    muxStart f s.toMux = t.toMux := by
  unfold execStart at h
  unfold muxStart
  rw [encodeText_textOf] at h ⊢
  by_cases hv : IdentifierValid f
  · simp only [if_pos hv, State.toMux_active] at h ⊢
    cases hc : startCheck s.active (effectiveRate f) <;> rw [hc] at h <;> cases h
    · rfl
    · rw [State.respondOk, State.toMux_respond, State.toMux_beginSession]
  · rw [if_neg hv] at h ⊢
    cases h
    rfl

theorem muxStop_toMux {s t : State} (h : execStop s = .next t) : muxStop s.toMux = t.toMux := by
  unfold muxStop
  rw [State.toMux_active]
  rcases execStop_cases s with ⟨ha, e⟩ | ⟨ha, e⟩ <;> rw [e] at h <;> cases h
  · rw [if_pos ha]
    rfl
  · rw [if_neg (by simp [ha])]
    rfl

/-- One event takes corresponding states to corresponding states. -/
theorem muxExec_toMux {e : Event} {s t : State} (h : applyEvent e s = .next t) :
    muxExec e.instr s.toMux = t.toMux := by
  cases e with
  | reset => cases h; rfl
  | tu => exact muxTu_toMux h
  | cmd w =>
    change exec (decodeCommand w) s = .next t at h
    change muxExec (decodeCommand w) s.toMux = t.toMux
    obtain ⟨f, e | e | e | e⟩ := decodeCommand_cases w <;> rw [e] at h ⊢
    case inl => cases h; rfl
    case inr.inl => exact muxEnc_toMux h
    case inr.inr.inl => exact muxStart_toMux h
    case inr.inr.inr => exact muxStop_toMux h

/-- The two designs show the same from corresponding states on. -/
theorem observe_eq_muxObserve (evs : List Event) {s : State} (hw : s.WellFormed) :
    observe evs s = muxObserve evs s.toMux := by
  induction evs generalizing s with
  | nil => rfl
  | cons e rest ih =>
    obtain ⟨t, ht⟩ := applyEvent_next e hw
    rw [observe_cons_next ht, muxObserve, muxExec_toMux ht, State.ports_toMux,
      ih (exec_keeps_wellFormed hw ht)]

/-- Settles O55: reset states correspond and are well-formed. -/
theorem muxDesignIsIndistinguishable : Obligations.MuxDesignIsIndistinguishable :=
  fun evs => by rw [observe_eq_muxObserve evs State.wellFormed_reset, State.toMux_reset]

/-! ### The clock edge (R26) -/

/-- TU writes its own output in every branch. -/
theorem execTu_quiet (s : State) : execTu s.quiet = execTu s := by
  rcases execTu_cases s with ⟨hw, e⟩ | ⟨hw, ha, e⟩ | ⟨hw, ha, ht, e⟩ | ⟨hw, ha, ht, e⟩ <;> rw [e]
  · unfold execTu
    rw [if_pos (show ¬ s.quiet.WellFormed from hw)]
  · exact execTu_idle (hw.with_out _) ha
  · exact execTu_counts (hw.with_out _) ha ht
  · exact execTu_ticks (hw.with_out _) ha ht

theorem execStart_quiet (f : CommandFields) (s : State) : execStart f s.quiet = execStart f s := by
  unfold execStart
  cases encodeText (textOf f) with
  | error e => rfl
  | ok r =>
    simp only [State.quiet_active]
    cases startCheck s.active (effectiveRate f) <;> rfl

theorem execStop_quiet (s : State) : execStop s.quiet = execStop s := rfl

/-- No event reads the output of the event before it. -/
theorem applyEvent_quiet (e : Event) (s : State) : applyEvent e s.quiet = applyEvent e s := by
  cases e with
  | reset => rfl
  | tu => exact execTu_quiet s
  | cmd w =>
    change exec (decodeCommand w) s.quiet = exec (decodeCommand w) s
    obtain ⟨f, e | e | e | e⟩ := decodeCommand_cases w <;> rw [e]
    case inl => rfl
    case inr.inl => exact (execEnc_eq_encAnswer f s.quiet).trans (execEnc_eq_encAnswer f s).symm
    case inr.inr.inl => exact execStart_quiet f s
    case inr.inr.inr => exact execStop_quiet s

/-- An edge that takes one event is that event. -/
theorem applyEdge_of_single {p : Edge} {e : Event} {s t : State} (hp : p.events = [e])
    (h : applyEvent e s = .next t) : applyEdge p s = .next t := by
  have hq : applyEvent e s.quiet = .next t := (applyEvent_quiet e s).trans h
  rw [applyEdge, hp, runEvents_cons_next hq, traceEvents_cons_next hq]
  rfl

/-- An edge that takes two events runs the second on the state the first left, and puts out what both
put out. -/
theorem applyEdge_of_pair {p : Edge} {e e' : Event} {s t u : State} (hp : p.events = [e, e'])
    (h : applyEvent e s = .next t) (h' : applyEvent e' t = .next u) :
    applyEdge p s = .next { u with out := t.out.merge u.out } := by
  have hq : applyEvent e s.quiet = .next t := (applyEvent_quiet e s).trans h
  rw [applyEdge, hp, runEvents_cons_next hq, runEvents_cons_next h', traceEvents_cons_next hq,
    traceEvents_cons_next h']
  rfl

theorem Output.merge_eq {a b : Output} (ha : a.rsp = none) (hb : b.sym = none) :
    a.merge b = { sym := a.sym, rsp := b.rsp } := by
  simp [Output.merge, ha, hb]

/-- Settles O57: each clause fixes the events of the edge, and the edge is their run. -/
theorem edgeTakesTuBeforeCommand : Obligations.EdgeTakesTuBeforeCommand := by
  intro p s hw
  obtain ⟨t, ht, hrsp⟩ := applyEvent_tu_next hw
  refine ⟨fun hr => ?_, fun hr htu hc => ?_, fun hr htu hc => ?_, fun hr htu hc => ?_,
    fun hr htu hc => ?_⟩
  · exact applyEdge_of_single (e := .reset) (by simp [Edge.events, hr]) rfl
  · obtain ⟨u, hu, hsym⟩ := applyEvent_cmd_next p.cmdWord t
    refine ⟨t, u, ht, hu, ?_⟩
    rw [applyEdge_of_pair (by simp [Edge.events, hr, htu, hc]) ht hu, Output.merge_eq hrsp hsym]
  · rw [ht]
    exact applyEdge_of_single (by simp [Edge.events, hr, htu, hc]) ht
  · obtain ⟨u, hu, -⟩ := applyEvent_cmd_next p.cmdWord s
    rw [hu]
    exact applyEdge_of_single (by simp [Edge.events, hr, htu, hc]) hu
  · rw [applyEdge, show p.events = [] by simp [Edge.events, hr, htu, hc]]
    rfl

end Sys2Proof.Machine

/-! SUPPORT and proofs of the family of spec/20_memory.md. First what runs and emissions do one event at a
time; then the block without a session, which only a START that can succeed leaves. -/

namespace Sys2Proof.Machine

/-! ### TU outside the invariants (R56, R192) -/

/-- Settles O26: every other thing TU can do presupposes a well-formed state. -/
theorem tuRefusesIllFormedState : Obligations.TuRefusesIllFormedState := by
  intro s hn
  rcases execTu_cases s with ⟨-, e⟩ | ⟨hw, -⟩ | ⟨hw, -⟩ | ⟨hw, -⟩
  · exact e
  all_goals exact absurd hw hn

/-! ### Runs and emissions, one event at a time (R52, R161) -/

/-- R192: every run from a well-formed state completes. -/
theorem safeRun_of_wellFormed (evs : List Event) {s : State} (hw : s.WellFormed) :
    SafeRun evs s := by
  induction evs generalizing s with
  | nil => exact ⟨s, rfl⟩
  | cons e rest ih =>
    obtain ⟨t, ht⟩ := applyEvent_next e hw
    rw [SafeRun, runEvents_cons_next ht]
    exact ih (exec_keeps_wellFormed hw ht)

/-- An event that emits nothing adds nothing to the emissions of the run. -/
theorem emissions_cons_of_silent {e : Event} {rest : List Event} {s t : State}
    (h : applyEvent e s = .next t) (ho : t.out.sym = none) :
    emissions (e :: rest) s = emissions rest t := by
  rw [emissions, traceEvents_cons_next h, List.filterMap_cons_none ho, emissions]

/-! ### The block without a session (R53, R140) -/

/-- R127: after a STOP there is no session. -/
theorem execStop_leaves_idle {s t : State} (h : execStop s = .next t) : t.active = false := by
  rcases execStop_cases s with ⟨-, e⟩ | ⟨ha, e⟩ <;> rw [e] at h <;> cases h
  · rfl
  · exact ha

/-- R122: a START that cannot succeed leaves ACTIVE as it was. -/
theorem execStart_keeps_active {f : CommandFields} {s t : State}
    (hf : ¬ (IdentifierValid f ∧ 0 < effectiveRate f)) (h : execStart f s = .next t) :
    t.active = s.active := by
  rcases execStart_cases f s with ⟨hv, -, hr, -⟩ | ⟨_, -, e⟩
  · exact absurd ⟨hv, hr⟩ hf
  · rw [e] at h
    cases h
    rfl

/-- R122: a command other than a START that can succeed begins no session. -/
theorem applyEvent_cmd_keeps_idle {w : CommandWord} {s t : State} (ha : s.active = false)
    (hb : beginsFromIdle (.cmd w) = false) (h : applyEvent (.cmd w) s = .next t) :
    t.active = false := by
  change exec (decodeCommand w) s = .next t at h
  obtain ⟨f, e | e | e | e⟩ := decodeCommand_cases w <;> rw [e] at h
  case inl => cases h; exact ha
  case inr.inl =>
    have hs := (execEnc_eq_encAnswer f s).symm.trans h
    cases hs
    exact ha
  case inr.inr.inl =>
    have hf : ¬ (IdentifierValid f ∧ 0 < effectiveRate f) := by
      simpa only [beginsFromIdle, Event.instr, e, decide_eq_false_iff_not] using hb
    exact (execStart_keeps_active hf h).trans ha
  case inr.inr.inr => exact execStop_leaves_idle h

/-- R140: while idle, an event other than a START that can succeed emits nothing and the block stays
idle. -/
theorem applyEvent_idle {e : Event} {s : State} (hw : s.WellFormed) (ha : s.active = false)
    (hb : beginsFromIdle e = false) :
    ∃ t, applyEvent e s = .next t ∧ t.active = false ∧ t.out.sym = none := by
  cases e with
  | reset => exact ⟨_, rfl, rfl, rfl⟩
  | tu => exact ⟨_, execTu_idle hw ha, ha, rfl⟩
  | cmd w =>
    obtain ⟨t, ht, ho⟩ := applyEvent_cmd_next w s
    exact ⟨t, ht, applyEvent_cmd_keeps_idle ha hb ht, ho⟩

/-- R53: an idle block emits nothing until a START that can succeed. -/
theorem emissions_eq_nil_of_idle (evs : List Event) {s : State} (hw : s.WellFormed)
    (ha : s.active = false) (hb : ∀ e ∈ evs, beginsFromIdle e = false) : emissions evs s = [] := by
  induction evs generalizing s with
  | nil => rfl
  | cons e rest ih =>
    obtain ⟨he, hrest⟩ := List.forall_mem_cons.mp hb
    obtain ⟨t, ht, hat, ho⟩ := applyEvent_idle hw ha he
    rw [emissions_cons_of_silent ht ho]
    exact ih (exec_keeps_wellFormed hw ht) hat hrest

/-- Settles O35: STOP leaves a well-formed idle state, and an idle block is silent. -/
theorem noEmissionAfterStop : Obligations.NoEmissionAfterStop := by
  intro f s evs hw hb
  obtain ⟨t, ht⟩ : ∃ t, execStop s = .next t := by
    rcases execStop_cases s with ⟨-, e⟩ | ⟨-, e⟩
    · exact ⟨_, e⟩
    · exact ⟨_, e⟩
  have hwt : t.WellFormed := execStop_keeps_wellFormed hw ht
  exact ⟨t, ht, emissions_eq_nil_of_idle evs hwt (execStop_leaves_idle ht) hb,
    safeRun_of_wellFormed evs hwt⟩

end Sys2Proof.Machine

/-! SUPPORT and proofs of the family of spec/30_encoding.md. First the opcode map and what each form of
an encoding means; then the numbers of the opcode table, the packed frame and the response word, the
assembler, and the emissions of a run of time units. -/

namespace Sys2Proof

/-! ### The opcode map (R62, R74) -/

/-- The opcode map: the command with this `op` and these operands. -/
def commandOfOp (op : BitVec 2) (f : CommandFields) : Instr :=
  if op = 0b00#2 then .nop f
  else if op = 0b01#2 then .enc f
  else if op = 0b10#2 then .start f
  else .stop f

/-- R74: decoding is the opcode map at the field `op`. -/
theorem decodeCommand_eq_commandOfOp (w : CommandWord) :
    decodeCommand w = commandOfOp (opField w) (operandFields w) := rfl

theorem decodeCommand_encodeCommand (op : BitVec 2) (f : CommandFields) :
    decodeCommand (encodeCommand op f) = commandOfOp op f := by
  rw [decodeCommand_eq_commandOfOp, opField_encodeCommand, operandFields_encodeCommand]

/-- R62: all four values of `op` are defined. -/
theorem op_cases : ∀ op : BitVec 2, op = 0b00#2 ∨ op = 0b01#2 ∨ op = 0b10#2 ∨ op = 0b11#2 := by
  decide

theorem encode_commandOfOp (op : BitVec 2) (f : CommandFields) :
    encode (commandOfOp op f) = .command (encodeCommand op f) := by
  rcases op_cases op with rfl | rfl | rfl | rfl <;> rfl

/-- A single bit is a field of width 1. -/
theorem ofBool_getLsbD_eq_extractLsb' {n : Nat} (x : BitVec n) (i : Nat) :
    BitVec.ofBool (x.getLsbD i) = x.extractLsb' i 1 := by
  apply BitVec.eq_of_getLsbD_eq
  intro j hj
  obtain rfl : j = 0 := by omega
  simp

/-- R61: the five fields cover the word, so putting them together again gives it back. -/
theorem encodeCommand_fields (w : CommandWord) :
    encodeCommand (opField w) (operandFields w) = w := by
  simp only [encodeCommand, opField, operandFields, ofBool_getLsbD_eq_extractLsb']
  rw [BitVec.extractLsb'_append_extractLsb'_eq_extractLsb' (by decide),
    BitVec.extractLsb'_append_extractLsb'_eq_extractLsb' (by decide),
    BitVec.extractLsb'_append_extractLsb'_eq_extractLsb' (by decide),
    BitVec.extractLsb'_append_extractLsb']

/-- The two bits of `op`. -/
theorem opField_eq_ofBool (w : CommandWord) :
    opField w = BitVec.ofBool (w.getLsbD 102) ++ BitVec.ofBool (w.getLsbD 101) := by
  rw [ofBool_getLsbD_eq_extractLsb', ofBool_getLsbD_eq_extractLsb',
    BitVec.extractLsb'_append_extractLsb'_eq_extractLsb' (by decide), opField]

/-! ### Decode and encode agree (R61, R62, R66, R75) -/

theorem encode_symbol_instr (y : FrameSymbol) : encode y.instr = .symbol y.code := by
  cases y <;> rfl

/-- Settles O6: a command is the opcode map of its own `op`; the other forms have one word each. -/
theorem decodeInvertsEncode : Obligations.DecodeInvertsEncode := by
  intro i
  cases i with
  | nop f => exact congrArg Except.ok (decodeCommand_encodeCommand 0b00#2 f)
  | enc f => exact congrArg Except.ok (decodeCommand_encodeCommand 0b01#2 f)
  | start f => exact congrArg Except.ok (decodeCommand_encodeCommand 0b10#2 f)
  | stop f => exact congrArg Except.ok (decodeCommand_encodeCommand 0b11#2 f)
  | zero => rfl
  | one => rfl
  | delimiter => rfl
  | terminator => rfl
  | tu => rfl
  | reset => rfl

/-- R75: the pin `tu` is an event at level 1 only. -/
theorem decode_tuPin_eq_ok {b : BitVec 1} {i : Instr} (h : decode (.tuPin b) = .ok i) :
    b = 1#1 ∧ i = .tu := by
  rw [decode] at h
  split_ifs at h with hb
  exact ⟨hb, (Except.ok.inj h).symm⟩

/-- R75: the pin `rst` is an event at level 1 only. -/
theorem decode_rstPin_eq_ok {b : BitVec 1} {i : Instr} (h : decode (.rstPin b) = .ok i) :
    b = 1#1 ∧ i = .reset := by
  rw [decode] at h
  split_ifs at h with hb
  exact ⟨hb, (Except.ok.inj h).symm⟩

/-- Settles O7: the fields of a word determine it, a code determines its symbol, and a pin is an event
at level 1 only. -/
theorem encodeInvertsDecode : Obligations.EncodeInvertsDecode := by
  intro x i h
  cases x with
  | command w =>
    cases h
    rw [decodeCommand_eq_commandOfOp, encode_commandOfOp, encodeCommand_fields]
  | symbol c =>
    cases h
    rw [encode_symbol_instr, code_symbolOfCode]
  | tuPin b =>
    obtain ⟨rfl, rfl⟩ := decode_tuPin_eq_ok h
    rfl
  | rstPin b =>
    obtain ⟨rfl, rfl⟩ := decode_rstPin_eq_ok h
    rfl

/-- Settles O4: bits 102 and 101 are `op`. -/
theorem opFieldSelectsCommand : Obligations.OpFieldSelectsCommand := by
  intro w
  refine ⟨operandFields w, rfl, rfl, rfl, rfl, ?_, ?_, ?_, ?_⟩ <;> intro h1 h0 <;>
    rw [decode, decodeCommand_eq_commandOfOp, opField_eq_ofBool, h1, h0] <;> rfl

/-- Settles O5. -/
theorem workedEncodingsDecode : Obligations.WorkedEncodingsDecode := by
  unfold Obligations.WorkedEncodingsDecode
  decide

end Sys2Proof

namespace Sys2Proof.Machine

/-! ### The numbers of the opcode table, placed (R60) -/

/-- What the table decoder reads is the meaning of the encoding that the number is. -/
theorem decodeTableWord_eq_some {nbits w : Nat} {i : Instr} :
    decodeTableWord nbits w = some i ↔ ∃ x, tableEncoding nbits w = .ok x ∧ decode x = .ok i := by
  unfold decodeTableWord
  cases tableEncoding nbits w with
  | error e => simp
  | ok x => cases hx : decode x <;> simp [hx]

/-- R60: the width selects the format; symbols have the widths 2 and 8, and no number is a RESET. -/
theorem tableEncoding_cases {nbits w : Nat} {x : Encoding} (h : tableEncoding nbits w = .ok x) :
    (∃ c, x = .command c) ∨ ((nbits = 2 ∨ nbits = 8) ∧ ∃ c, x = .symbol c) ∨
      ∃ b, x = .tuPin b := by
  unfold tableEncoding at h
  split_ifs at h with _ _ hs <;> cases h
  · exact .inl ⟨_, rfl⟩
  · exact .inr (.inl ⟨hs, _, rfl⟩)
  · exact .inr (.inr ⟨_, rfl⟩)

/-- The code of a symbol is its number, in either width. -/
theorem tableEncoding_code {nbits : Nat} (hn : nbits = 2 ∨ nbits = 8) (y : FrameSymbol) :
    tableEncoding nbits y.code.toNat = .ok (.symbol y.code) := by
  rcases hn with rfl | rfl <;> cases y <;> rfl

theorem decode_symbol_code (y : FrameSymbol) : decode (.symbol y.code) = .ok y.instr := by
  rw [decode, symbolOfCode_code]

theorem withFetchWord_command {nbits w : Nat} {c : CommandWord} (s : State)
    (h : tableEncoding nbits w = .ok (.command c)) :
    s.withFetchWord nbits w = s.present (.cmd c) := by
  simp only [State.withFetchWord, State.placeWord, h]

theorem withFetchWord_tu {nbits w : Nat} (s : State)
    (h : tableEncoding nbits w = .ok (.tuPin 1#1)) : s.withFetchWord nbits w = s.present .tu := by
  simp only [State.withFetchWord, State.placeWord, h, if_true]

theorem withFetchWord_symbol {nbits w : Nat} {y : FrameSymbol} (s : State)
    (h : tableEncoding nbits w = .ok (.symbol y.code)) : s.withFetchWord nbits w = s.cueSymbol y := by
  simp only [State.withFetchWord, State.placeWord, h, symbolOfCode_code]

/-- An event put first is the one the next step runs. -/
theorem step_present (s : State) (e : Event) : step (s.present e) = exec e.instr s := rfl

/-- Settles O8: placing a command or the level 1 of the pin `tu` puts its event first. -/
theorem placedCommandRunsNext : Obligations.PlacedCommandRunsNext := by
  intro s nbits w i hi h2 h8
  obtain ⟨x, hx, hd⟩ := decodeTableWord_eq_some.mp hi
  rcases tableEncoding_cases hx with ⟨c, rfl⟩ | ⟨hn, -⟩ | ⟨b, rfl⟩
  · cases hd
    rw [withFetchWord_command s hx, step_present]
    rfl
  · exact absurd hn (by omega)
  · obtain ⟨rfl, rfl⟩ := decode_tuPin_eq_ok hd
    rw [withFetchWord_tu s hx, step_present]
    rfl

/-- R42: the cued frame holds its symbol at the cued cursor. -/
theorem frameCell_cue (y : FrameSymbol) : frameCell (cueValue y) (cueCursor y) = y := by
  cases y <;> rfl

/-- The state in which the step after cueing a symbol runs its TU: the cued state with that event taken
off the queue. -/
def State.cued (s : State) (y : FrameSymbol) : State := { s.cueSymbol y with pending := s.pending }

theorem State.cued_cell (s : State) (y : FrameSymbol) :
    (s.cued y).frame[(s.cued y).cursor] = y :=
  (toFrame_getElem_fin (cueValue y) (cueCursor y)).trans (frameCell_cue y)

theorem State.wellFormed_cued {s : State} (y : FrameSymbol) (hheld : s.HeldOutputOk) :
    (s.cued y).WellFormed :=
  State.wellFormed_of_active rfl ⟨le_rfl, le_rfl⟩ hheld (isEncoderFrame_toFrame _)

/-- Its TU is a tick that finds the symbol (R131, R161). -/
theorem step_cueSymbol {s : State} (y : FrameSymbol) (hheld : s.HeldOutputOk) :
    step (s.cueSymbol y) = .next ((s.cued y).tick y).reloadTimer := by
  have htick := execTu_ticks (State.wellFormed_cued y hheld) rfl rfl
  rw [State.cued_cell] at htick
  exact htick

/-- Settles O9: a number read as a symbol is that symbol's code, whatever its width, and cueing the
symbol makes the next TU a tick that finds it. -/
theorem placedSymbolRunsNext : Obligations.PlacedSymbolRunsNext := by
  intro nbits y hn
  refine ⟨decodeTableWord_eq_some.mpr ⟨_, tableEncoding_code hn y, decode_symbol_code y⟩, ?_⟩
  intro s w hi hheld
  obtain ⟨x, hx, hd⟩ := decodeTableWord_eq_some.mp hi
  rw [← encodeInvertsDecode _ _ hd, encode_symbol_instr] at hx
  rw [withFetchWord_symbol s hx, step_cueSymbol y hheld]
  exact ⟨_, rfl, rfl, rfl, rfl, rfl⟩

/-! ### The packed frame (R71) -/

theorem packSymbols_lt (l : List FrameSymbol) : packSymbols l < 4 ^ l.length := by
  induction l with
  | nil => exact Nat.one_pos
  | cons y rest ih =>
    have hy := y.code.isLt
    rw [packSymbols, List.length_cons, Nat.pow_succ]
    omega

/-- Base 4 digit `k` of the packed symbols is the code of symbol `k`. -/
theorem packSymbols_digit (l : List FrameSymbol) (k : Nat) (hk : k < l.length) :
    packSymbols l / 4 ^ k % 4 = l[k].code.toNat := by
  induction l generalizing k with
  | nil => exact absurd hk (Nat.not_lt_zero k)
  | cons y rest ih =>
    have hy := y.code.isLt
    cases k with
    | zero =>
      rw [packSymbols, List.getElem_cons_zero, Nat.pow_zero]
      omega
    | succ k =>
      have hdrop : (y.code.toNat + 4 * packSymbols rest) / 4 = packSymbols rest := by omega
      rw [packSymbols, List.getElem_cons_succ, Nat.pow_succ', ← Nat.div_div_eq_div_mul, hdrop]
      exact ih k (Nat.lt_of_succ_lt_succ hk)

/-- 41 symbols fit in the 82 bits. -/
theorem packFrame_toNat (f : Frame) : (packFrame f).toNat = packSymbols f.toList := by
  have hlt := packSymbols_lt f.toList
  rw [Vector.length_toList] at hlt
  exact Nat.mod_eq_of_lt hlt

theorem packFrame_digit (f : Frame) (k : Fin 41) :
    (packFrame f).toNat / 4 ^ k.val % 4 = (f[k]).code.toNat := by
  rw [packFrame_toNat, packSymbols_digit _ _ (by simp)]
  simp

theorem symOfBit_code_toNat (b : Bool) : (symOfBit b).code.toNat = if b then 1 else 0 := by
  cases b <;> rfl

/-- A data cell and the delimiter after it are one hexadecimal digit. -/
theorem packFrame_toFrame_hexDigit (v : IdBits) (i : Fin 20) :
    (packFrame (toFrame v)).toNat / 16 ^ i.val % 16 = if v.getLsbD (19 - i.val) then 9 else 8 := by
  have hdata := packFrame_digit (toFrame v) ⟨2 * i.val, by omega⟩
  have hdelim := packFrame_digit (toFrame v) ⟨2 * i.val + 1, by omega⟩
  have hpow : 4 ^ (2 * i.val) = 16 ^ i.val := Nat.pow_mul 4 2 i.val
  rw [toFrame_getElem_fin, frameCell_even v (by simp) (by simp; omega), symOfBit_code_toNat, hpow,
    Nat.mul_div_cancel_left _ Nat.two_pos] at hdata
  rw [toFrame_getElem_fin, frameCell_odd v (by simp), Nat.pow_succ, hpow, ← Nat.div_div_eq_div_mul]
    at hdelim
  change _ = 2 at hdelim
  split_ifs at hdata ⊢ <;> omega

/-- Settles O52. -/
theorem packedFrameLayout : Obligations.PackedFrameLayout := by
  refine ⟨fun f k => BitVec.eq_of_toNat_eq ?_, fun v => ⟨?_, packFrame_toFrame_hexDigit v⟩⟩
  · rw [BitVec.extractLsb'_toNat, Nat.shiftRight_eq_div_pow, Nat.pow_mul]
    exact packFrame_digit f k
  · have htop := packFrame_digit (toFrame v) 40
    have hlt := (packFrame (toFrame v)).isLt
    rw [toFrame_getElem_fin, frameCell_last] at htop
    change _ / 4 ^ 40 % 4 = 3 at htop
    omega

/-! ### The response word and the effective rate (R64, R67) -/

/-- Settles O53. -/
theorem responseWordLayout : Obligations.ResponseWordLayout := by
  refine ⟨fun r => ⟨?_, ?_, ?_⟩, rfl, rfl, rfl, rfl, rfl⟩
  · rw [Response.word, BitVec.extractLsb'_append_eq_of_le (by decide)]
    exact BitVec.extractLsb'_append_eq_left
  · rw [Response.word, BitVec.extractLsb'_append_eq_of_le (by decide)]
    exact BitVec.extractLsb'_append_eq_right
  · exact BitVec.extractLsb'_append_eq_right

/-- Settles O16. -/
theorem effectiveRateAssembly : Obligations.EffectiveRateAssembly := by
  intro f
  refine ⟨fun hrv hr => ?_, fun hrv hr => ?_, fun hrv => ?_⟩
  · rw [effectiveRate, if_pos hrv, BitVec.toInt_eq_toNat_of_lt (by omega)]
  · rw [effectiveRate, if_pos hrv, BitVec.toInt_eq_toNat_cond, if_neg (by omega), Nat.cast_pow,
      Nat.cast_ofNat]
  · rw [effectiveRate, if_neg (by simp [hrv])]

/-! ### The assembler (R65, R77) -/

theorem commandEvent_instr (op : BitVec 2) (f : CommandFields) :
    (commandEvent op f).instr = commandOfOp op f := decodeCommand_encodeCommand op f

/-- The slots after the literal are zero. -/
theorem pow_dvd_packText (n : Nat) (text : List Byte) :
    256 ^ (n - text.length) ∣ packText n text := by
  induction text generalizing n with
  | nil => cases n <;> exact dvd_zero _
  | cons c rest ih =>
    cases n with
    | zero => exact dvd_zero _
    | succ n =>
      rw [packText, List.length_cons, Nat.add_sub_add_right]
      exact dvd_add ((pow_dvd_pow 256 (Nat.sub_le n _)).mul_left _) (ih n)

theorem assembleFields_slotsClear {text : List Byte} (ht : text.length ≤ 8) (rate : Option Int) :
    (assembleFields none text rate).slotsClear = true := by
  obtain ⟨q, hq⟩ := pow_dvd_packText 8 text
  have hpow : 256 ^ (8 - text.length) * 2 ^ (8 * text.length) = 2 ^ 64 := by
    rw [show 256 = 2 ^ 8 from rfl, ← Nat.pow_mul, ← Nat.pow_add]
    congr 1
    omega
  have hlen : (BitVec.ofNat 4 text.length).toNat = text.length := Nat.mod_eq_of_lt (by omega)
  refine beq_iff_eq.mpr (BitVec.eq_of_toNat_eq ?_)
  simp only [assembleFields, Option.getD_none, hlen, BitVec.toNat_shiftLeft, BitVec.toNat_ofNat,
    Nat.shiftLeft_eq, Nat.mod_mul_mod, hq]
  rw [Nat.mul_right_comm, hpow, Nat.mul_mod_right]
  rfl

theorem assembleFields_rateClear (len : Option Nat) (text : List Byte) (rate : Option Int) :
    (assembleFields len text rate).rateClear = true := by
  cases rate <;> rfl

theorem blankFields_allClear : blankFields.allClear = true := by decide

theorem length_le_of_operandsLegal {len : Option Nat} {text : List Byte} {rate : Option Int}
    (h : operandsLegal len text rate = true) : text.length ≤ 8 := by
  simp only [operandsLegal, Bool.and_eq_true, decide_eq_true_eq] at h
  obtain ⟨⟨ht, -⟩, -⟩ := h
  exact ht

/-- R65: the words the assembler writes without `len=`. -/
theorem wellFormed_commandEvent_enc {text : List Byte} (h : operandsLegal none text none = true) :
    (commandEvent 0b01#2 (assembleFields none text none)).instr.wellFormed = true := by
  rw [commandEvent_instr]
  exact assembleFields_slotsClear (length_le_of_operandsLegal h) none

theorem wellFormed_commandEvent_start {text : List Byte} {rate : Option Int}
    (h : operandsLegal none text rate = true) :
    (commandEvent 0b10#2 (assembleFields none text rate)).instr.wellFormed = true := by
  rw [commandEvent_instr]
  exact Bool.and_eq_true_iff.mpr ⟨assembleFields_rateClear none text rate,
    assembleFields_slotsClear (length_le_of_operandsLegal h) rate⟩

theorem wellFormed_commandEvent_nop : (commandEvent 0b00#2 blankFields).instr.wellFormed = true := by
  rw [commandEvent_instr]
  exact blankFields_allClear

theorem wellFormed_commandEvent_stop : (commandEvent 0b11#2 blankFields).instr.wellFormed = true := by
  rw [commandEvent_instr]
  exact blankFields_allClear

theorem wellFormed_of_mem_replicate_tu {n : Nat} {e : Event} (he : e ∈ List.replicate n .tu) :
    e.instr.wellFormed = true := by
  rw [List.eq_of_mem_replicate he]
  rfl

/-- Settles O59: one case for each form of a line. -/
theorem assemblerWordsAreCanonical : Obligations.AssemblerWordsAreCanonical := by
  intro s l evs h hEnc hStart
  cases l with
  | empty => cases h; nofun
  | reset => cases h; exact List.forall_mem_singleton.mpr rfl
  | tu => cases h; exact List.forall_mem_singleton.mpr rfl
  | nop => cases h; exact List.forall_mem_singleton.mpr wellFormed_commandEvent_nop
  | stop => cases h; exact List.forall_mem_singleton.mpr wellFormed_commandEvent_stop
  | enc len text =>
    cases len with
    | some n => exact absurd rfl (hEnc n text)
    | none =>
      obtain ⟨hl, h⟩ := Option.ite_none_right_eq_some.mp h
      cases h
      exact List.forall_mem_singleton.mpr (wellFormed_commandEvent_enc hl)
  | start len text rate =>
    cases len with
    | some n => exact absurd rfl (hStart n text rate)
    | none =>
      obtain ⟨hl, h⟩ := Option.ite_none_right_eq_some.mp h
      cases h
      exact List.forall_mem_singleton.mpr (wellFormed_commandEvent_start hl)
  | tuTimes n => cases h; exact fun e he => wellFormed_of_mem_replicate_tu he
  | tick =>
    obtain ⟨-, h⟩ := Option.ite_none_right_eq_some.mp h
    cases h
    exact fun e he => wellFormed_of_mem_replicate_tu he
  | tickTimes n =>
    obtain ⟨-, h⟩ := Option.ite_none_right_eq_some.mp h
    cases h
    exact fun e he => wellFormed_of_mem_replicate_tu he
  | restart text rate =>
    obtain ⟨hl, h⟩ := Option.ite_none_right_eq_some.mp h
    cases h
    exact List.forall_mem_cons.mpr ⟨wellFormed_commandEvent_stop,
      List.forall_mem_singleton.mpr (wellFormed_commandEvent_start hl)⟩

/-! ### Time units alone (R139) -/

/-- An event that emits a symbol puts it first among the emissions of the run. -/
theorem emissions_cons_of_emits {e : Event} {rest : List Event} {s t : State} {y : FrameSymbol}
    (h : applyEvent e s = .next t) (ho : t.out.sym = some y) :
    emissions (e :: rest) s = y :: emissions rest t := by
  rw [emissions, traceEvents_cons_next h, List.filterMap_cons_some ho, emissions]

/-- R139: `n` time units alone make a session emit as often as RATE fits into `n` and the time units of
the interval that have already passed. -/
theorem length_emissions_replicate_tu (n : Nat) {s : State} (hw : s.WellFormed)
    (ha : s.active = true) :
    (emissions (List.replicate n .tu) s).length =
      (n + (s.rate.toNat - s.tmr.toNat)) / s.rate.toNat := by
  induction n generalizing s with
  | zero =>
    obtain ⟨h1, h2, h3⟩ := hw.timer ha
    exact (Nat.div_eq_of_lt (by omega)).symm
  | succ n ih =>
    obtain ⟨h1, h2, h3⟩ := hw.timer ha
    rw [List.replicate_succ]
    by_cases ht : 1 < s.tmr.toNat
    · have hsub : (s.tmr - 1).toNat = s.tmr.toNat - 1 :=
        BitVec.toNat_sub_of_le (BitVec.le_def.mpr (by simpa using ht.le))
      rw [emissions_cons_of_silent (e := .tu) (execTu_counts hw ha ht) rfl, ih (hw.countDown ha ht) ha]
      simp only [State.quiet_rate, hsub]
      congr 1
      omega
    · have ht1 : s.tmr.toNat = 1 := by omega
      rw [emissions_cons_of_emits (e := .tu) (execTu_ticks hw ha ht1) rfl, List.length_cons,
        ih ((hw.tick ha _).reloadTimer ha) ha]
      simp only [State.reloadTimer_rate, State.reloadTimer_tmr, State.tick_rate]
      rw [← Nat.add_div_right _ h1]
      congr 1
      omega

/-- The time units of `tick * (m + 1)`: the rest of the running interval and `m` whole ones. -/
theorem units_add_elapsed {tmr rate : Nat} (h : tmr ≤ rate) (m : Nat) :
    tmr + m * rate + (rate - tmr) = (m + 1) * rate := by
  rw [Nat.succ_mul]
  omega

/-- Settles O60: TMR time units end the running interval and each further emission takes RATE, so the
last time unit is the one that emits the last symbol. -/
theorem tickScriptEmitsExactly : Obligations.TickScriptEmitsExactly := by
  intro s hw ha
  obtain ⟨hrate, htmr, hle⟩ := hw.timer ha
  refine ⟨if_pos ha, by simp [expandLine], fun n => ⟨_, if_pos ha, ?_⟩⟩
  cases n with
  | zero =>
    exact ⟨fun _ => rfl, fun h => absurd h (Nat.lt_irrefl 0), rfl,
      fun h => absurd h (Nat.lt_irrefl 0)⟩
  | succ m =>
    rw [if_neg m.succ_ne_zero, Nat.add_sub_cancel]
    refine ⟨fun h => absurd h m.succ_ne_zero, fun _ => rfl, ?_, fun _ => ?_⟩
    · rw [length_emissions_replicate_tu _ hw ha, units_add_elapsed hle, Nat.mul_div_left _ hrate]
    · have hlast : s.tmr.toNat + m * s.rate.toNat - 1 + (s.rate.toNat - s.tmr.toNat) =
          s.rate.toNat - 1 + m * s.rate.toNat := by omega
      rw [List.dropLast_replicate, length_emissions_replicate_tu _ hw ha, hlast,
        Nat.add_mul_div_right _ _ hrate, Nat.div_eq_of_lt (Nat.sub_one_lt_of_lt hrate), Nat.zero_add]

end Sys2Proof.Machine

/-! SUPPORT and proofs of the family of spec/40_encoder.md. First the digits and the letter case of an
identifier; then the frame, cell by cell and as the list of its symbols. -/

namespace Sys2Proof.Machine

/-! ### The digits of an identifier (R69, R90, R91) -/

/-- R69: '0' to '9'. -/
theorem hexval_decimal {c : Byte} (h : 0x30 ≤ c.toNat) (h' : c.toNat ≤ 0x39) :
    hexval c = some (c.toNat - 0x30) := by
  rw [hexval, if_pos ⟨h, h'⟩]

/-- R69: 'A' to 'F'. -/
theorem hexval_upper {c : Byte} (h : 0x41 ≤ c.toNat) (h' : c.toNat ≤ 0x46) :
    hexval c = some (c.toNat - 0x41 + 10) := by
  rw [hexval, if_neg (by omega), if_pos ⟨h, h'⟩]

/-- R69: 'a' to 'f'. -/
theorem hexval_lower {c : Byte} (h : 0x61 ≤ c.toNat) (h' : c.toNat ≤ 0x66) :
    hexval c = some (c.toNat - 0x61 + 10) := by
  rw [hexval, if_neg (by omega), if_neg (by omega), if_pos ⟨h, h'⟩]

/-- R90: a byte below, between or above the three ranges is no digit. -/
theorem hexval_eq_none {c : Byte}
    (h : c.toNat < 0x30 ∨ (0x39 < c.toNat ∧ c.toNat < 0x41) ∨ (0x46 < c.toNat ∧ c.toNat < 0x61) ∨
      0x66 < c.toNat) : hexval c = none := by
  rw [hexval, if_neg (by omega), if_neg (by omega), if_neg (by omega)]

/-- Settles O47. -/
theorem hexDigitValues : Obligations.HexDigitValues :=
  fun _ => ⟨hexval_decimal, hexval_upper, hexval_lower, hexval_eq_none⟩

/-- R91: bytes that differ only in letter case have the same digit value. -/
theorem hexval_eq_of_lowerAscii_eq {c d : Byte} (h : lowerAscii c = lowerAscii d) :
    hexval c = hexval d := by
  rw [← hexval_lowerAscii c, h, hexval_lowerAscii d]

/-- R92, R93: validity looks at the length and the five digit values only. -/
theorem identifierValid_congr {f g : CommandFields} (hlen : f.idLen = g.idLen)
    (hdig : ∀ j : Fin 8, j.val < 5 → hexval (slot f j) = hexval (slot g j)) :
    IdentifierValid f ↔ IdentifierValid g := by
  refine and_congr (by rw [hlen]) (forall₂_congr fun j hj => ?_)
  rw [hdig j hj]

/-- R44: so does the value. -/
theorem identifierBits_congr {f g : CommandFields}
    (hdig : ∀ j : Fin 8, j.val < 5 → hexval (slot f j) = hexval (slot g j)) :
    identifierBits f = identifierBits g := by
  rw [identifierBits, identifierBits, identifierValue, identifierValue, hdig 0 (by decide),
    hdig 1 (by decide), hdig 2 (by decide), hdig 3 (by decide), hdig 4 (by decide)]

/-- R102: texts of one length with the same five digit values are encoded alike. -/
theorem encodeText_textOf_congr {f g : CommandFields} (hlen : f.idLen = g.idLen)
    (hdig : ∀ j : Fin 8, j.val < 5 → hexval (slot f j) = hexval (slot g j)) :
    encodeText (textOf f) = encodeText (textOf g) := by
  rw [encodeText_textOf, encodeText_textOf, identifierBits_congr hdig]
  exact if_congr (identifierValid_congr hlen hdig) rfl rfl

/-- R64: the effective rate looks at `rv` and `rate` only. -/
theorem effectiveRate_congr {f g : CommandFields} (hrv : f.rv = g.rv) (hrate : f.rate = g.rate) :
    effectiveRate f = effectiveRate g := by
  rw [effectiveRate, effectiveRate, hrv, hrate]

/-- R103: ENC looks at its operand through the Encoder only. -/
theorem execEnc_congr {f g : CommandFields}
    (h : encodeText (textOf f) = encodeText (textOf g)) (s : State) :
    execEnc f s = execEnc g s := by
  rw [execEnc, execEnc, h]

/-- R122: START looks at its operand through the Encoder and the effective rate only. -/
theorem execStart_congr {f g : CommandFields}
    (h : encodeText (textOf f) = encodeText (textOf g)) (hr : effectiveRate f = effectiveRate g)
    (s : State) : execStart f s = execStart g s := by
  rw [execStart, execStart, h, hr]

/-- Settles O15: case folding keeps the digit values, and the two commands see no more of the slots. -/
theorem letterCaseDoesNotMatter : Obligations.LetterCaseDoesNotMatter := by
  refine ⟨hexval_lowerAscii, fun f g s hlen hrv hrate hslots => ?_⟩
  have henc : encodeText (textOf f) = encodeText (textOf g) :=
    encodeText_textOf_congr hlen fun j hj => hexval_eq_of_lowerAscii_eq (hslots j hj)
  exact ⟨execEnc_congr henc s, execStart_congr henc (effectiveRate_congr hrv hrate) s⟩

/-! ### The converter and the answer of ENC (R95, R103) -/

/-- R95: from 2^20 on there is no bit-vector. -/
theorem toBitVector_of_ge {n : Nat} (h : 2 ^ 20 ≤ n) : toBitVector n = .error .overflow := if_pos h

/-- Settles O24. -/
theorem toBitVectorBoundary : Obligations.ToBitVectorBoundary :=
  fun _ => ⟨toBitVector_of_ge, fun h => ⟨_, toBitVector_of_lt h, Nat.mod_eq_of_lt h⟩⟩

/-- Settles O12. -/
theorem encRespondsValueAndFrame : Obligations.EncRespondsValueAndFrame :=
  fun _ s h => ⟨execEnc_valid h s, identifierValue_lt h⟩

/-! ### The cells of a frame (R98 to R100) -/

theorem symOfBit_eq_zero_or_one (b : Bool) : symOfBit b = .zero ∨ symOfBit b = .one := by
  cases b
  · exact .inl rfl
  · exact .inr rfl

/-- R99: cell `2i` is the data symbol of bit `19 - i`. -/
theorem toFrame_data (v : IdBits) (i : Fin 20) :
    (toFrame v)[2 * i.val]'(by omega) = symOfBit (v.getLsbD (19 - i.val)) := by
  rw [toFrame_getElem, frameCell_even v (by simp) (by simp; omega),
    Nat.mul_div_cancel_left _ Nat.two_pos]

/-- R99: cell `2i + 1` is the delimiter after it. -/
theorem toFrame_delimiter (v : IdBits) (i : Fin 20) :
    (toFrame v)[2 * i.val + 1]'(by omega) = .delimiter := by
  rw [toFrame_getElem, frameCell_odd v (by simp)]

/-- Settles O48. -/
theorem frameAddressMap : Obligations.FrameAddressMap :=
  fun v => ⟨fun i => ⟨toFrame_data v i, toFrame_delimiter v i⟩,
    (toFrame_getElem v 40 (by decide)).trans (frameCell_last v)⟩

/-- Settles O50: reading the value back inverts `toFrame`. -/
theorem frameDeterminesValue : Obligations.FrameDeterminesValue :=
  ⟨frameValue_toFrame, Function.LeftInverse.injective frameValue_toFrame⟩

/-- R100: the place of a cell fixes its kind. -/
theorem frameCell_cases (v : IdBits) (k : Fin 41) :
    (k.val = 40 ∧ frameCell v k = .terminator) ∨
    (k.val % 2 = 1 ∧ frameCell v k = .delimiter) ∨
    (k.val % 2 = 0 ∧ k.val < 40 ∧ (frameCell v k = .zero ∨ frameCell v k = .one)) := by
  by_cases hlast : k.val = 40
  · obtain rfl : k = 40 := Fin.ext hlast
    exact .inl ⟨rfl, frameCell_last v⟩
  · by_cases hodd : k.val % 2 = 1
    · exact .inr (.inl ⟨hodd, frameCell_odd v hodd⟩)
    · have heven : k.val % 2 = 0 := by omega
      rw [frameCell_even v heven hlast]
      exact .inr (.inr ⟨heven, by omega, symOfBit_eq_zero_or_one _⟩)

theorem frameCell_eq_terminator_iff (v : IdBits) (k : Fin 41) :
    frameCell v k = .terminator ↔ k.val = 40 := by
  rcases frameCell_cases v k with ⟨hk, e⟩ | ⟨hk, e⟩ | ⟨-, hk, e | e⟩ <;> simp [e] <;> omega

theorem frameCell_eq_delimiter_iff (v : IdBits) (k : Fin 41) :
    frameCell v k = .delimiter ↔ k.val % 2 = 1 := by
  rcases frameCell_cases v k with ⟨hk, e⟩ | ⟨hk, e⟩ | ⟨hk, -, e | e⟩ <;> simp [e] <;> omega

theorem frameCell_data_iff (v : IdBits) (k : Fin 41) :
    (frameCell v k = .zero ∨ frameCell v k = .one) ↔ k.val % 2 = 0 ∧ k.val < 40 := by
  rcases frameCell_cases v k with ⟨hk, e⟩ | ⟨hk, e⟩ | ⟨hk, hk', e | e⟩ <;> simp [e] <;> omega

/-- R100: neighbours differ in being DELIMITER, and across the wrap in being TERMINATOR. -/
theorem frameCell_ne_succ (v : IdBits) (k : Fin 41) : frameCell v k ≠ frameCell v (k + 1) := by
  intro he
  by_cases hlast : k.val = 40
  · obtain rfl : k = 40 := Fin.ext hlast
    have hwrap := (frameCell_eq_terminator_iff v (40 + 1)).mp (he.symm.trans (frameCell_last v))
    exact absurd hwrap (by decide)
  · have hnext : (k + 1).val = k.val + 1 := Fin.val_add_one_of_lt' (by omega)
    have hk := frameCell_eq_delimiter_iff v k
    rw [he, frameCell_eq_delimiter_iff] at hk
    omega

/-! ### The frame as a list of symbols (R99, R100) -/

/-- What the formatter emits for one bit: its data symbol and the delimiter. -/
def bitSymbols (b : Bool) : List FrameSymbol := [symOfBit b, .delimiter]

/-- R99: the symbols of the bits in order, then one TERMINATOR. -/
theorem toFrame_toList (v : IdBits) :
    (toFrame v).toList = (bitString v).flatMap bitSymbols ++ [.terminator] := by
  rw [toFrame, Vector.toList_ofFn, List.ofFn_succ_last, List.ofFn_mul (m := 20) (n := 2)]
  rfl

/-- How often a symbol is among the symbols of some bits. -/
def symbolCount (bits : List Bool) : FrameSymbol → Nat
  | .zero => bits.count false
  | .one => bits.count true
  | .delimiter => bits.length
  | .terminator => 0

theorem symbolCount_append (bits bits' : List Bool) (y : FrameSymbol) :
    symbolCount (bits ++ bits') y = symbolCount bits y + symbolCount bits' y := by
  cases y with
  | zero => exact List.count_append
  | one => exact List.count_append
  | delimiter => exact List.length_append
  | terminator => rfl

theorem count_bitSymbols (b : Bool) (y : FrameSymbol) :
    (bitSymbols b).count y = symbolCount [b] y := by
  cases b <;> cases y <;> rfl

theorem count_flatMap_bitSymbols (bits : List Bool) (y : FrameSymbol) :
    (bits.flatMap bitSymbols).count y = symbolCount bits y := by
  induction bits with
  | nil => cases y <;> rfl
  | cons b rest ih =>
    rw [List.flatMap_cons, List.count_append, ih, count_bitSymbols, ← symbolCount_append,
      List.singleton_append]

/-- R100: the TERMINATOR is the one symbol of a frame that no bit has. -/
theorem count_toFrame (v : IdBits) (y : FrameSymbol) :
    (toFrame v).toList.count y = symbolCount (bitString v) y + if y = .terminator then 1 else 0 := by
  rw [toFrame_toList, List.count_append, count_flatMap_bitSymbols]
  cases y <;> rfl

theorem length_bitString (v : IdBits) : (bitString v).length = 20 := by simp [bitString]

/-- Settles O49: the places are those of the three kinds of cell, and the counts those of the bits. -/
theorem frameSymbolCounts : Obligations.FrameSymbolCounts := by
  intro v
  simp only [toFrame_getElem_fin, count_toFrame]
  refine ⟨Vector.length_toList, fun k => ⟨frameCell_eq_terminator_iff v k,
    frameCell_eq_delimiter_iff v k, frameCell_data_iff v k⟩, rfl, length_bitString v, ?_, rfl,
    frameCell_ne_succ v⟩
  exact (List.count_true_add_count_false (bitString v)).trans (length_bitString v)

end Sys2Proof.Machine

/-! SUPPORT and proofs of the family of spec/41_sequencer.md. First the queue and what one event does: the
commands, the time unit, the mux. Then a session as a clock: at `n` time units since its START every
session register is a function of `n`, each event moves the clock by its time units, and the symbols
emitted are those of the ticks the clock passes. -/

namespace Sys2Proof.Machine

/-! ### Stepping is running the events (R146) -/

/-- Settles O1. -/
theorem stepRunsDecodedEvent : Obligations.StepRunsDecodedEvent := by
  intro s e rest i hp hd
  obtain rfl : e.instr = i := Except.ok.inj ((decode_event_encoding e).symm.trans hd)
  exact step_cons hp

/-- Settles O10: the first step runs the first event, which passes the queue through, and leaves the rest
of the list first in it. -/
theorem steppingIsRunningTheEvents : Obligations.SteppingIsRunningTheEvents := by
  intro evs rest s hp
  induction evs generalizing s with
  | nil =>
    rw [List.nil_append] at hp
    rw [← hp]
    rfl
  | cons e evs ih =>
    have hstep : step s = andThen (exec e.instr s) fun t => { t with pending := evs ++ rest } :=
      (step_cons hp).trans (exec_pending e.instr s (evs ++ rest))
    have hevent : applyEvent e { s with pending := rest } =
        andThen (exec e.instr s) fun t => { t with pending := rest } := exec_pending e.instr s rest
    cases hx : exec e.instr s with
    | next t =>
      rw [hx] at hstep hevent
      rw [List.length_cons, core_run_next hstep, runEvents_cons_next hevent]
      exact ih _ rfl
    | fault r => exact nomatch r
    | refused r =>
      rw [hx] at hstep hevent
      rw [List.length_cons, core_run_refused hstep, runEvents, hevent]
      rfl

/-! ### The commands (R126 to R129) -/

/-- Settles O11. -/
theorem nopOnlyResponds : Obligations.NopOnlyResponds := by
  have hnop : ∀ w : CommandWord, w.getLsbD 102 = false → w.getLsbD 101 = false →
      ∃ f, decode (.command w) = .ok (.nop f) := by
    intro w h1 h0
    obtain ⟨f, -, -, -, -, hd, -⟩ := opFieldSelectsCommand w
    exact ⟨f, hd h1 h0⟩
  exact ⟨fun _ s => execNop_eq s, hnop, hnop 0 rfl rfl⟩

/-- Settles O17: a positive effective rate fits the two registers. -/
theorem startBeginsSession : Obligations.StartBeginsSession := by
  intro f s hv ha hr
  exact ⟨BitVec.ofInt 31 (effectiveRate f), ofInt_toNat_of_rate hr (effectiveRate_lt f),
    (execStart_begins hv ha hr).trans (congrArg _ (s.beginSession_respondOk _ _))⟩

/-- R127: STOP with a session. -/
theorem execStop_active {s : State} (ha : s.active = true) :
    execStop s = .next s.endSession.respondOk := if_pos ha

/-- R127: STOP without one. -/
theorem execStop_idle {s : State} (ha : s.active = false) : execStop s = .next s.respondOk :=
  if_neg (by simp [ha])

/-- Settles O19. -/
theorem stopEndsSession : Obligations.StopEndsSession :=
  fun _ _ => ⟨execStop_active, execStop_idle⟩

/-- STOP completes, and leaves no session and the response OK. -/
theorem execStop_next (s : State) :
    ∃ t, execStop s = .next t ∧ t.active = false ∧ t.out = .answer .ok := by
  rcases execStop_cases s with ⟨-, e⟩ | ⟨ha, e⟩
  · exact ⟨_, e, rfl, rfl⟩
  · exact ⟨_, e, ha, rfl⟩

/-- Settles O20: responding OK again is no change. -/
theorem stopIsIdempotent : Obligations.StopIsIdempotent := by
  intro f g s
  obtain ⟨t, ht, ha, ho⟩ := execStop_next s
  have hsame : t.respondOk = t := by
    rw [show t.respondOk = { t with out := .answer .ok } from rfl, ← ho]
  exact ⟨t, ht, ha, (execStop_idle ha).trans (congrArg _ hsame), ho⟩

/-- The reset state with the held output and the queue of `s`: what a STOP leaves, but for its
response. -/
def State.forgotten (s : State) : State :=
  { State.reset with symq := s.symq, symqv := s.symqv, pending := s.pending }

/-- R127, R21: from a well-formed state STOP leaves nothing of a session, be there one or not. -/
theorem execStop_eq_forgotten {s : State} (hw : s.WellFormed) :
    execStop s = .next s.forgotten.respondOk := by
  rcases execStop_cases s with ⟨-, e⟩ | ⟨ha, e⟩
  · exact e
  · obtain ⟨hidle, -⟩ := hw
    obtain ⟨hframe, hcursor, hloops, hrate, htmr⟩ := hidle ha
    rw [e]
    obtain ⟨active, frame, cursor, loops, rate, tmr, symq, symqv, out, pending⟩ := s
    cases ha; cases hframe; cases hcursor; cases hloops; cases hrate; cases htmr
    rfl

/-- START does not read the response before it. -/
theorem execStart_respondOk (f : CommandFields) (s : State) :
    execStart f s.respondOk = execStart f s := by
  rw [← execStart_quiet f s.respondOk, ← execStart_quiet f s]
  rfl

/-- Settles O21. -/
theorem restartForgetsOldSession : Obligations.RestartForgetsOldSession := by
  intro f g s t hw h
  obtain rfl : s.forgotten.respondOk = t :=
    Host.Outcome.next.inj ((execStop_eq_forgotten hw).symm.trans h)
  exact execStart_respondOk f s.forgotten

/-! ### What an event does to the session (R120, R146) -/

/-- The state `s` after a command that answered `r` and wrote no register. -/
def State.answered (s : State) (r : Response) : State :=
  { s with out := { sym := none, rsp := some r } }

theorem State.answered_sameSession (s : State) (r : Response) : SameSession s (s.answered r) :=
  ⟨rfl, rfl, rfl, rfl, rfl, rfl⟩

/-- ENC only answers. -/
theorem execEnc_answered (f : CommandFields) (s : State) :
    ∃ r, execEnc f s = .next (s.answered r) := by
  rcases execEnc_cases f s with ⟨-, e⟩ | e
  · exact ⟨_, e⟩
  · exact ⟨_, e⟩

/-- Everything a command can do: answer only, end a session, or begin one from idle. -/
theorem applyEvent_cmd_cases {w : CommandWord} {s t : State}
    (h : applyEvent (.cmd w) s = .next t) :
    (∃ r, t = s.answered r) ∨
    (∃ f, decodeCommand w = .stop f ∧ t = s.endSession.respondOk) ∨
    ∃ f, decodeCommand w = .start f ∧ s.active = false ∧
      t = (s.beginSession (toFrame (identifierBits f)) (effectiveRate f)).respondOk := by
  change exec (decodeCommand w) s = .next t at h
  obtain ⟨f, hd | hd | hd | hd⟩ := decodeCommand_cases w <;> rw [hd] at h ⊢
  case inl => cases h; exact .inl ⟨_, rfl⟩
  case inr.inl =>
    obtain ⟨r, e⟩ := execEnc_answered f s
    exact .inl ⟨r, Host.Outcome.next.inj (h.symm.trans e)⟩
  case inr.inr.inl =>
    rcases execStart_cases f s with ⟨-, ha, -, e⟩ | ⟨_, -, e⟩ <;>
      have ht := Host.Outcome.next.inj (h.symm.trans e)
    · exact .inr (.inr ⟨f, rfl, ha, ht⟩)
    · exact .inl ⟨_, ht⟩
  case inr.inr.inr =>
    rcases execStop_cases s with ⟨-, e⟩ | ⟨-, e⟩ <;>
      have ht := Host.Outcome.next.inj (h.symm.trans e)
    · exact .inr (.inl ⟨f, rfl, ht⟩)
    · exact .inl ⟨_, ht⟩

/-- R146: a command responds once and emits nothing. -/
theorem applyEvent_cmd_out {w : CommandWord} {s t : State}
    (h : applyEvent (.cmd w) s = .next t) : t.out.sym = none ∧ ∃ r, t.out.rsp = some r := by
  rcases applyEvent_cmd_cases h with ⟨r, rfl⟩ | ⟨f, -, rfl⟩ | ⟨f, -, -, rfl⟩
  · exact ⟨rfl, _, rfl⟩
  · exact ⟨rfl, _, rfl⟩
  · exact ⟨rfl, _, rfl⟩

/-- R130, R161: a TU does not respond, and emits exactly when a session's timer fires. -/
theorem execTu_out {s t : State} (h : execTu s = .next t) :
    t.out.rsp = none ∧ (t.out.sym.isSome = true ↔ s.active = true ∧ s.tmr.toNat = 1) := by
  rcases execTu_cases s with ⟨-, e⟩ | ⟨-, ha, e⟩ | ⟨-, ha, ht, e⟩ | ⟨-, ha, ht, e⟩ <;>
    rw [e] at h <;> cases h
  case inr.inl => simp [ha]
  case inr.inr.inl => exact ⟨rfl, nofun, fun hfire => absurd hfire.2 (by omega)⟩
  case inr.inr.inr => exact ⟨rfl, fun _ => ⟨ha, ht⟩, fun _ => rfl⟩

/-- Settles O42. -/
theorem outputsByEvent : Obligations.OutputsByEvent := by
  intro e s t h
  refine ⟨?_, ?_, ?_⟩
  · rintro w rfl
    exact applyEvent_cmd_out h
  · rintro rfl
    exact execTu_out h
  · rintro rfl
    cases h
    rfl

/-- Settles O45: a command that ends or begins no session only answers. -/
theorem onlyTheseEventsChangeSession : Obligations.OnlyTheseEventsChangeSession := by
  intro e s t h hchanged
  cases e with
  | reset => exact .inl rfl
  | tu => exact .inr (.inl rfl)
  | cmd w =>
    rcases applyEvent_cmd_cases h with ⟨r, rfl⟩ | ⟨f, hd, -⟩ | ⟨f, hd, -, rfl⟩
    · exact absurd (s.answered_sameSession r) hchanged
    · exact .inr (.inr (.inl ⟨f, hd⟩))
    · exact .inr (.inr (.inr ⟨f, hd, rfl⟩))

/-- From `s` to `t` no session began: one in `t` was there in `s`, and FRAME is as it was, or idle. -/
def BeginsNone (s t : State) : Prop :=
  (t.active = true → s.active = true) ∧ (t.frame = s.frame ∨ t.frame = idleFrame)

theorem execSymbol_beginsNone {y : FrameSymbol} {s t : State} (h : execSymbol y s = .next t) :
    BeginsNone s t := by
  obtain ⟨-, rfl⟩ := execSymbol_eq_next h
  exact ⟨id, .inl rfl⟩

theorem execTu_beginsNone {s t : State} (h : execTu s = .next t) : BeginsNone s t := by
  rcases execTu_cases s with ⟨-, e⟩ | ⟨-, -, e⟩ | ⟨-, -, -, e⟩ | ⟨-, -, -, e⟩ <;>
    rw [e] at h <;> cases h
  · exact ⟨id, .inl rfl⟩
  · exact ⟨id, .inl rfl⟩
  · exact ⟨id, .inl rfl⟩

theorem execStop_beginsNone {s t : State} (h : execStop s = .next t) : BeginsNone s t := by
  rcases execStop_cases s with ⟨-, e⟩ | ⟨-, e⟩ <;> rw [e] at h <;> cases h
  · exact ⟨nofun, .inr rfl⟩
  · exact ⟨id, .inl rfl⟩

theorem execEnc_beginsNone {f : CommandFields} {s t : State} (h : execEnc f s = .next t) :
    BeginsNone s t := by
  obtain ⟨r, e⟩ := execEnc_answered f s
  rw [e] at h
  cases h
  exact ⟨id, .inl rfl⟩

/-- R126: an instruction begins no session, or is a START that succeeds from idle. -/
theorem exec_beginsNone_or_start {i : Instr} {s t : State} (h : exec i s = .next t) :
    BeginsNone s t ∨ ∃ f, i = .start f ∧ s.active = false ∧ t.out = .answer .ok ∧
      t.frame = toFrame (identifierBits f) := by
  cases i with
  | nop f => cases h; exact .inl ⟨id, .inl rfl⟩
  | enc f => exact .inl (execEnc_beginsNone h)
  | start f =>
    change execStart f s = .next t at h
    rcases execStart_cases f s with ⟨-, ha, -, e⟩ | ⟨_, -, e⟩ <;> rw [e] at h <;> cases h
    · exact .inr ⟨f, rfl, ha, rfl, rfl⟩
    · exact .inl ⟨id, .inl rfl⟩
  | stop f => exact .inl (execStop_beginsNone h)
  | zero => exact .inl (execSymbol_beginsNone (y := .zero) h)
  | one => exact .inl (execSymbol_beginsNone (y := .one) h)
  | delimiter => exact .inl (execSymbol_beginsNone (y := .delimiter) h)
  | terminator => exact .inl (execSymbol_beginsNone (y := .terminator) h)
  | tu => exact .inl (execTu_beginsNone h)
  | reset => cases h; exact .inl ⟨nofun, .inr rfl⟩

/-- Settles O46. -/
theorem onlyStartWritesFrame : Obligations.OnlyStartWritesFrame := by
  intro i s t h hnew
  refine (exec_beginsNone_or_start h).resolve_left ?_
  rintro ⟨hactive, hframe⟩
  rcases hnew with ⟨hs, ht⟩ | ⟨hne, hidle⟩
  · exact absurd (hs.symm.trans (hactive ht)) (by decide)
  · exact hframe.elim hne hidle

/-! ### The time unit and the tick (R130, R131) -/

/-- Within an interval TMR is one less. -/
theorem toNat_tmr_sub_one {m : TimeUnits} (h : 1 < m.toNat) : (m - 1).toNat = m.toNat - 1 :=
  BitVec.toNat_sub_of_le (BitVec.le_def.mpr (by simpa using h.le))

/-- R131: the cursor after a tick. -/
theorem State.tick_cursor_val (s : State) (y : FrameSymbol) :
    (s.tick y).cursor.val = (s.cursor.val + 1) % 41 := by
  rw [State.tick_cursor]
  split_ifs with hc
  · rw [hc]
    rfl
  · rw [Fin.val_add_one_of_lt' (by omega), Nat.mod_eq_of_lt (by omega)]

/-- R136: the loop counter after a tick, modulo 2^16. -/
theorem State.tick_loops_toNat (s : State) (y : FrameSymbol) :
    (s.tick y).loops.toNat = (s.loops.toNat + (s.cursor.val + 1) / 41) % 65536 := by
  have hlt := s.loops.isLt
  rw [State.tick_loops]
  split_ifs with hc
  · rw [hc, BitVec.toNat_add]
    rfl
  · rw [Nat.div_eq_of_lt (by omega), Nat.add_zero, Nat.mod_eq_of_lt hlt]

/-- Settles O25. -/
theorem tuCountsAndTicks : Obligations.TuCountsAndTicks := by
  intro s hw
  refine ⟨execTu_idle hw, fun ha ht => ⟨s.tmr - 1, ?_, execTu_counts hw ha ht⟩, execTu_ticks hw⟩
  rw [toNat_tmr_sub_one ht]
  omega

/-- Settles O3: a timer at 1 is a tick that finds the symbol in the cell at CURSOR. -/
theorem tickExecutesSymbolAtCursor : Obligations.TickExecutesSymbolAtCursor := by
  intro s hw ha ht
  refine ⟨s.tick s.frame[s.cursor], ?_, execTu_ticks hw ha (by rw [ht]; rfl)⟩
  rw [exec_symbol_instr]
  exact execSymbol_of_finds ⟨hw, ha, ht, rfl⟩

/-! ### The mux and its gates (R137) -/

/-- The mux is the address map of the frame. -/
theorem muxSymbol_eq_frameCell (v : IdBits) (c : Fin 41) : muxSymbol v c = frameCell v c := rfl

/-- The gates in terms of the cursor's number: at 40, at an odd index, at an even one. -/
theorem muxCode_ofNat (v : IdBits) (c : Fin 41) :
    muxCode v (BitVec.ofNat 6 c.val) =
      BitVec.ofBool (decide (c.val = 40) || decide (c.val % 2 = 1)) ++
        BitVec.ofBool (decide (c.val = 40) ||
          !decide (c.val % 2 = 1) && v.getLsbD (19 - c.val / 2)) := by
  have hlast : (BitVec.ofNat 6 c.val == 40#6) = decide (c.val = 40) := by
    rw [Bool.eq_iff_iff, beq_iff_eq, decide_eq_true_iff, ← BitVec.toNat_inj, BitVec.toNat_ofNat]
    change c.val % 64 = 40 ↔ _
    omega
  have hodd : (BitVec.ofNat 6 c.val).getLsbD 0 = decide (c.val % 2 = 1) := by
    rw [BitVec.getLsbD_ofNat, Nat.testBit_zero]
    rfl
  have hbit : ((BitVec.ofNat 6 c.val).extractLsb' 1 5).toNat = c.val / 2 := by
    rw [BitVec.extractLsb'_toNat, Nat.shiftRight_eq_div_pow, BitVec.toNat_ofNat]
    omega
  simp only [muxCode, hlast, hodd, hbit]

theorem muxCode_eq_code (v : IdBits) (c : Fin 41) :
    muxCode v (BitVec.ofNat 6 c.val) = (frameCell v c).code := by
  rw [muxCode_ofNat]
  by_cases hlast : c.val = 40
  · obtain rfl : c = 40 := Fin.ext hlast
    simp [frameCell_last, FrameSymbol.code]
  · by_cases hodd : c.val % 2 = 1
    · rw [frameCell_odd v hodd]
      simp [hlast, hodd, FrameSymbol.code]
    · rw [frameCell_even v (by omega) hlast]
      cases hb : v.getLsbD (19 - c.val / 2) <;> simp [hlast, hodd, symOfBit, FrameSymbol.code]

/-- Settles O54: the stored frame of a session is that of the value the frame test reads off. -/
theorem muxGivesFrameCell : Obligations.MuxGivesFrameCell := by
  refine ⟨fun v c => ?_, fun s hw ha => ⟨frameValue s.frame, hw.frame_eq ha, ?_⟩⟩
  · rw [toFrame_getElem_fin]
    exact ⟨muxSymbol_eq_frameCell v c, muxCode_eq_code v c⟩
  · rw [← State.toMux_bv_of_active ha]
    exact muxSymbol_toMux hw ha

/-! ### A session as a clock (R134 to R139) -/

/-- R135: the symbol of tick `j` of a session, counted from 0. -/
def tickSymbol (fr : Frame) (j : Nat) : FrameSymbol := fr[j % 41]'(Nat.mod_lt _ (by decide))

/-- The symbols of the ticks from `a` on and before `b`, in order. -/
def tickSymbols (fr : Frame) (a b : Nat) : List FrameSymbol := (List.Ico a b).map (tickSymbol fr)

theorem tickSymbols_self (fr : Frame) (a : Nat) : tickSymbols fr a a = [] := by
  rw [tickSymbols, List.Ico.self_empty, List.map_nil]

theorem tickSymbols_succ (fr : Frame) (a : Nat) : tickSymbols fr a (a + 1) = [tickSymbol fr a] := by
  rw [tickSymbols, List.Ico.succ_singleton, List.map_singleton]

theorem tickSymbols_append (fr : Frame) {a b c : Nat} (hab : a ≤ b) (hbc : b ≤ c) :
    tickSymbols fr a b ++ tickSymbols fr b c = tickSymbols fr a c := by
  rw [tickSymbols, tickSymbols, ← List.map_append, List.Ico.append_consecutive hab hbc, tickSymbols]

theorem countTu_cons (e : Event) (rest : List Event) :
    countTu (e :: rest) = countTu [e] + countTu rest := List.countP_append (l₁ := [e])

theorem emissions_cons {e : Event} {rest : List Event} {s t : State}
    (h : applyEvent e s = .next t) :
    emissions (e :: rest) s = t.out.sym.toList ++ emissions rest t := by
  cases ho : t.out.sym with
  | none => exact emissions_cons_of_silent h ho
  | some y => exact emissions_cons_of_emits h ho

/-- R139: the well-formed state `s` has a session of frame `fr` and rate `r` in which `n` time units have
passed since the START. -/
structure SessionAt (fr : Frame) (r : TimeUnits) (n : Nat) (s : State) : Prop where
  wellFormed : s.WellFormed
  active : s.active = true
  frame : s.frame = fr
  rate : s.rate = r
  cursor : s.cursor.val = n / r.toNat % 41
  loops : s.loops.toNat = n / r.toNat / 41 % 65536
  tmr : s.tmr.toNat = r.toNat - n % r.toNat

/-- The ticks within `m` further time units, from the time units that have passed in the interval. -/
theorem add_div_eq_div_add (n m r : Nat) (hr : 0 < r) : (n + m) / r = n / r + (n % r + m) / r := by
  conv_lhs => rw [← Nat.div_add_mod n r, Nat.add_assoc, Nat.mul_add_div hr]

section
variable {fr : Frame} {r : TimeUnits} {n : Nat} {s : State}

theorem SessionAt.rate_pos (h : SessionAt fr r n s) : 0 < r.toNat := by
  obtain ⟨hpos, -⟩ := h.wellFormed.timer h.active
  rwa [h.rate] at hpos

/-- The cell at CURSOR is the symbol of the next tick. -/
theorem SessionAt.cell (h : SessionAt fr r n s) :
    s.frame[s.cursor] = tickSymbol fr (n / r.toNat) := by
  obtain ⟨-, -, rfl, -, hc, -, -⟩ := h
  simp [tickSymbol, ← hc]

/-- Nothing in a session depends on the output of the last event. -/
theorem SessionAt.with_out (h : SessionAt fr r n s) (o : Output) :
    SessionAt fr r n { s with out := o } :=
  ⟨h.wellFormed.with_out o, h.active, h.frame, h.rate, h.cursor, h.loops, h.tmr⟩

/-- R130: a time unit within an interval. -/
theorem SessionAt.countDown (h : SessionAt fr r n s) (ht : 1 < s.tmr.toNat) :
    SessionAt fr r (n + 1) { s.quiet with tmr := s.tmr - 1 } ∧
      (n + 1) / r.toNat = n / r.toNat := by
  have htmr := h.tmr
  have hdiv : (n + 1) / r.toNat = n / r.toNat := by
    rw [add_div_eq_div_add n 1 _ h.rate_pos, Nat.div_eq_of_lt (a := n % r.toNat + 1) (by omega),
      Nat.add_zero]
  have hmod : (n + 1) % r.toNat = n % r.toNat + 1 := by
    rw [← Nat.mod_add_mod, Nat.mod_eq_of_lt (by omega)]
  refine ⟨⟨h.wellFormed.countDown h.active ht, h.active, h.frame, h.rate, ?_, ?_, ?_⟩, hdiv⟩
  · rw [hdiv]
    exact h.cursor
  · rw [hdiv]
    exact h.loops
  · change (s.tmr - 1).toNat = _
    rw [toNat_tmr_sub_one ht, hmod]
    omega

/-- R130, R131: the time unit that ends an interval. -/
theorem SessionAt.tick (h : SessionAt fr r n s) (ht : s.tmr.toNat = 1) (y : FrameSymbol) :
    SessionAt fr r (n + 1) (s.tick y).reloadTimer ∧ (n + 1) / r.toNat = n / r.toNat + 1 := by
  have hr := h.rate_pos
  have htmr := h.tmr
  have hend : n % r.toNat + 1 = r.toNat := by omega
  have hdiv : (n + 1) / r.toNat = n / r.toNat + 1 := by
    rw [add_div_eq_div_add n 1 _ hr, hend, Nat.div_self hr]
  have hmod : (n + 1) % r.toNat = 0 := by rw [← Nat.mod_add_mod, hend, Nat.mod_self]
  have hwf := (h.wellFormed.tick h.active y).reloadTimer h.active
  refine ⟨⟨hwf, h.active, h.frame, h.rate, ?_, ?_, ?_⟩, hdiv⟩
  · rw [State.reloadTimer_cursor, State.tick_cursor_val, h.cursor, hdiv]
    omega
  · rw [State.reloadTimer_loops, State.tick_loops_toNat, h.cursor, h.loops, hdiv]
    omega
  · rw [State.reloadTimer_tmr, State.tick_rate, h.rate, hmod, Nat.sub_zero]

/-- A TU is one time unit, and emits the symbol of the tick it passes, if it passes one. -/
theorem SessionAt.tu (h : SessionAt fr r n s) :
    ∃ t, applyEvent .tu s = .next t ∧ SessionAt fr r (n + 1) t ∧
      t.out.sym.toList = tickSymbols fr (n / r.toNat) ((n + 1) / r.toNat) := by
  by_cases ht : 1 < s.tmr.toNat
  · obtain ⟨hnext, hdiv⟩ := h.countDown ht
    refine ⟨_, execTu_counts h.wellFormed h.active ht, hnext, ?_⟩
    rw [hdiv, tickSymbols_self]
    rfl
  · obtain ⟨-, hpos, -⟩ := h.wellFormed.timer h.active
    have ht1 : s.tmr.toNat = 1 := by omega
    obtain ⟨hnext, hdiv⟩ := h.tick ht1 s.frame[s.cursor]
    refine ⟨_, execTu_ticks h.wellFormed h.active ht1, hnext, ?_⟩
    rw [hdiv, tickSymbols_succ, ← h.cell]
    rfl

/-- R134: a command other than STOP leaves a running session alone. -/
theorem SessionAt.cmd (h : SessionAt fr r n s) {w : CommandWord}
    (hw : keepsSession (.cmd w) = true) :
    ∃ t, applyEvent (.cmd w) s = .next t ∧ SessionAt fr r n t ∧ t.out.sym = none := by
  obtain ⟨t, ht, ho⟩ := applyEvent_cmd_next w s
  refine ⟨t, ht, ?_, ho⟩
  rcases applyEvent_cmd_cases ht with ⟨a, rfl⟩ | ⟨f, hd, -⟩ | ⟨f, -, ha, -⟩
  · exact h.with_out _
  · simp [keepsSession, Event.instr, hd] at hw
  · exact absurd (h.active.symm.trans ha) (by decide)

/-- Any event but RESET and STOP moves the clock by its time units and emits the symbols of the ticks
passed. -/
theorem SessionAt.event (h : SessionAt fr r n s) {e : Event} (he : keepsSession e = true) :
    ∃ t, applyEvent e s = .next t ∧ SessionAt fr r (n + countTu [e]) t ∧
      t.out.sym.toList = tickSymbols fr (n / r.toNat) ((n + countTu [e]) / r.toNat) := by
  cases e with
  | reset => cases he
  | tu => exact h.tu
  | cmd w =>
    obtain ⟨t, ht, hs, ho⟩ := h.cmd he
    refine ⟨t, ht, hs, ?_⟩
    rw [ho]
    exact (tickSymbols_self fr _).symm

/-- R139: a run moves the clock by its time units and emits the symbols of the ticks passed. -/
theorem SessionAt.run (h : SessionAt fr r n s) {evs : List Event}
    (hevs : ∀ e ∈ evs, keepsSession e = true) :
    (∃ u, runEvents evs s = .next u ∧ SessionAt fr r (n + countTu evs) u) ∧
      emissions evs s = tickSymbols fr (n / r.toNat) ((n + countTu evs) / r.toNat) := by
  induction evs generalizing n s with
  | nil => exact ⟨⟨s, rfl, h⟩, (tickSymbols_self fr _).symm⟩
  | cons e rest ih =>
    obtain ⟨he, hrest⟩ := List.forall_mem_cons.mp hevs
    obtain ⟨t, ht, hs, hsym⟩ := h.event he
    obtain ⟨hrun, hemit⟩ := ih hs hrest
    rw [Nat.add_assoc, ← countTu_cons] at hrun hemit
    rw [runEvents_cons_next ht, emissions_cons ht, hsym, hemit]
    refine ⟨hrun, tickSymbols_append fr (Nat.div_le_div_right (Nat.le_add_right _ _))
      (Nat.div_le_div_right ?_)⟩
    rw [countTu_cons e rest]
    omega

end

/-- The time units since the START, LOOPS taken as the number of frames completed. -/
def State.elapsed (s : State) : Nat :=
  (s.loops.toNat * 41 + s.cursor.val) * s.rate.toNat + (s.rate.toNat - s.tmr.toNat)

/-- Every well-formed session is somewhere on the clock. -/
theorem State.WellFormed.sessionAt {s : State} (hw : s.WellFormed) (ha : s.active = true) :
    SessionAt s.frame s.rate s.elapsed s := by
  obtain ⟨hrate, htmr, hle⟩ := hw.timer ha
  have hloops := s.loops.isLt
  have hdiv : s.elapsed / s.rate.toNat = s.loops.toNat * 41 + s.cursor.val := by
    rw [State.elapsed, Nat.mul_comm, Nat.mul_add_div hrate,
      Nat.div_eq_of_lt (a := s.rate.toNat - s.tmr.toNat) (by omega), Nat.add_zero]
  have hmod : s.elapsed % s.rate.toNat = s.rate.toNat - s.tmr.toNat := by
    rw [State.elapsed, Nat.mul_add_mod_self_right, Nat.mod_eq_of_lt (by omega)]
  refine ⟨hw, ha, rfl, rfl, ?_, ?_, ?_⟩
  · rw [hdiv]
    omega
  · rw [hdiv]
    omega
  · rw [hmod]
    omega

/-- R122, R126: a START that answers OK begins a session at time 0, at the effective rate. -/
theorem sessionAt_of_execStart {f : CommandFields} {s t : State} (hw : s.WellFormed)
    (h : execStart f s = .next t) (ho : t.out = .answer .ok) :
    SessionAt t.frame t.rate 0 t ∧ (t.rate.toNat : Int) = effectiveRate f := by
  have hwt := execStart_keeps_wellFormed hw h
  rcases execStart_cases f s with ⟨-, -, hr, e⟩ | ⟨_, -, e⟩ <;> rw [e] at h <;> cases h
  · refine ⟨⟨hwt, rfl, rfl, rfl, ?_, ?_, ?_⟩, ofInt_toNat_of_rate hr (effectiveRate_lt f)⟩
    · rw [Nat.zero_div]
      rfl
    · rw [Nat.zero_div]
      rfl
    · rw [Nat.zero_mod]
      rfl
  · cases ho

/-- Settles O32: TMR time units lead exactly to the next tick of the clock. -/
theorem nextTickAfterExactlyTmrUnits : Obligations.NextTickAfterExactlyTmrUnits := by
  intro s evs hw ha hevs
  have hs := hw.sessionAt ha
  have htmr := hs.tmr
  obtain ⟨-, hemit⟩ := hs.run hevs
  rw [add_div_eq_div_add _ _ _ hs.rate_pos] at hemit
  refine ⟨fun hlt => ?_, fun heq => ?_⟩
  · rw [hemit, Nat.div_eq_of_lt (a := s.elapsed % s.rate.toNat + _) (by omega), Nat.add_zero,
      tickSymbols_self]
  · have hend : s.elapsed % s.rate.toNat + countTu evs = s.rate.toNat := by
      have hmod := Nat.mod_lt s.elapsed hs.rate_pos
      omega
    rw [hemit, hend, Nat.div_self hs.rate_pos, tickSymbols_succ, hs.cell]

/-- Settles O33: a START puts the clock at 0. -/
theorem sessionClosedForm : Obligations.SessionClosedForm := by
  intro f s t evs hw h ho hevs
  obtain ⟨hs, hrate⟩ := sessionAt_of_execStart hw h ho
  obtain ⟨⟨u, hrun, hu⟩, -⟩ := hs.run hevs
  rw [Nat.zero_add] at hu
  exact ⟨u, hrun, hu.active, hu.frame, hu.rate, hrate, hu.cursor, hu.loops, hu.tmr⟩

/-- Settles O34: the ticks passed since the START are the first `n / r`. -/
theorem sessionEmitsFrameInOrder : Obligations.SessionEmitsFrameInOrder := by
  intro f s t evs hw h ho hevs
  obtain ⟨hs, -⟩ := sessionAt_of_execStart hw h ho
  obtain ⟨-, hemit⟩ := hs.run hevs
  rw [hemit, Nat.zero_add, Nat.zero_div, tickSymbols, List.Ico.zero_bot]
  rfl

end Sys2Proof.Machine

/-! SUPPORT and proofs of the family of spec/42_symbol_output.md. First what the tick that finds a symbol
does, at the last index and below it, which the four symbols share; then what an event does to the held
output, and the responses and emissions of a run. -/

namespace Sys2Proof.Machine

/-! ### The tick that finds a symbol (R131, R161) -/

/-- R161, R131: the symbol's instruction and the TU do the same tick, and the TU reloads the timer. -/
theorem exec_of_tickFinds {s : State} {y : FrameSymbol} (h : s.TickFinds y) :
    exec y.instr s = .next (s.tick y) ∧ exec .tu s = .next (s.tick y).reloadTimer := by
  obtain ⟨hw, ha, ht, hy⟩ := h
  refine ⟨(exec_symbol_instr y s).trans (execSymbol_of_finds ⟨hw, ha, ht, hy⟩), ?_⟩
  rw [← hy, State.readCell_eq]
  exact execTu_ticks hw ha (by rw [ht]; rfl)

/-- R131: what a tick below the last index writes. -/
theorem State.tick_of_ne_last {s : State} (hc : s.cursor ≠ 40) (y : FrameSymbol) :
    s.tick y = { s with
      cursor := s.cursor + 1, symq := y, symqv := true, out := .emission y } := by
  simp only [State.tick, State.advanceCursor, State.emit, hc, if_false]

/-- R131: what the tick at the last index writes. -/
theorem State.tick_of_last {s : State} (hc : s.cursor = 40) (y : FrameSymbol) :
    s.tick y = { s with
      cursor := 0, loops := s.loops + 1, symq := y, symqv := true, out := .emission y } := by
  simp only [State.tick, State.advanceCursor, State.emit, hc, if_true]

/-- R160, R167: the ports after a tick show the symbol and its colour. -/
theorem State.tick_ports (s : State) (y : FrameSymbol) :
    (s.tick y).ports.symValid = true ∧ (s.tick y).ports.sym = y.code ∧
      (s.tick y).ports.rgb = color y := ⟨rfl, rfl, rfl⟩

/-- R162 to R164: everything a symbol found below the last index does, and the TU that finds it. -/
theorem tickFinds_below_last {s : State} {y : FrameSymbol} (h : s.TickFinds y)
    (hc : s.cursor.val < 40) :
    ∃ t : State, exec y.instr s = .next t ∧ exec .tu s = .next { t with tmr := s.rate } ∧
      t = { s with
        cursor := s.cursor + 1, symq := y, symqv := true, out := .emission y } ∧
      t.cursor.val = s.cursor.val + 1 ∧
      t.ports.symValid = true ∧ t.ports.sym = y.code ∧ t.ports.rgb = color y := by
  obtain ⟨hsym, htu⟩ := exec_of_tickFinds h
  have hne : s.cursor ≠ 40 := fun he => by simp [he] at hc
  refine ⟨s.tick y, hsym, htu, State.tick_of_ne_last hne y, ?_, s.tick_ports y⟩
  rw [State.tick_cursor_val, Nat.mod_eq_of_lt (by omega)]

/-- Settles O31. -/
theorem symbolElsewhereRefused : Obligations.SymbolElsewhereRefused :=
  fun s y h => (exec_symbol_instr y s).trans (execSymbol_of_not_finds h)

/-! ### The four symbols (R162 to R165) -/

/-- R162, R163: at an even index below the last a tick finds the data symbol of the bit. -/
theorem tickFinds_data {s : State} {v : IdBits} {i : Fin 20} (hw : s.WellFormed)
    (ha : s.active = true) (ht : s.tmr = 1) (hf : s.frame = toFrame v)
    (hc : s.cursor.val = 2 * i.val) : s.TickFinds (symOfBit (v.getLsbD (19 - i.val))) := by
  refine ⟨hw, ha, ht, ?_⟩
  have hhalf : s.cursor.val / 2 = i.val := by omega
  rw [State.readCell_eq, hf, toFrame_getElem_fin, frameCell_even v (by omega) (by omega), hhalf]

/-- Settles O27: the data symbol of a 0 is ZERO, and an even index is never the last. -/
theorem zeroEmittedForZeroBit : Obligations.ZeroEmittedForZeroBit := by
  intro s v i hw ha ht hf hc hbit
  have hfinds := tickFinds_data hw ha ht hf hc
  rw [hbit] at hfinds
  exact tickFinds_below_last hfinds (by omega)

/-- Settles O28: the data symbol of a 1 is ONE. -/
theorem oneEmittedForOneBit : Obligations.OneEmittedForOneBit := by
  intro s v i hw ha ht hf hc hbit
  have hfinds := tickFinds_data hw ha ht hf hc
  rw [hbit] at hfinds
  exact tickFinds_below_last hfinds (by omega)

/-- R20 item 5, R99: the cell at CURSOR in a well-formed session, through the frame's value. -/
theorem State.WellFormed.readCell_cursor {s : State} (hw : s.WellFormed) (ha : s.active = true) :
    s.readCell s.cursor = frameCell (frameValue s.frame) s.cursor := by
  rw [State.readCell_eq, ← toFrame_getElem_fin, ← hw.frame_eq ha]

/-- Settles O29: an odd cell of any encoder frame is DELIMITER. -/
theorem delimiterEmittedAtOddIndex : Obligations.DelimiterEmittedAtOddIndex := by
  intro s hw ha ht hodd
  have hcell := (hw.readCell_cursor ha).trans (frameCell_odd _ hodd)
  exact tickFinds_below_last ⟨hw, ha, ht, hcell⟩ (by omega)

/-- R165: the last cell of a well-formed session's frame is TERMINATOR. -/
theorem State.WellFormed.readCell_last {s : State} (hw : s.WellFormed) (ha : s.active = true)
    (hc : s.cursor = 40) : s.readCell s.cursor = .terminator := by
  rw [hw.readCell_cursor ha, hc, frameCell_last]

/-- R165: everything TERMINATOR, found at the last index, does, and the TU that finds it. -/
theorem tickFinds_at_last {s : State} (hw : s.WellFormed) (ha : s.active = true) (ht : s.tmr = 1)
    (hc : s.cursor = 40) :
    ∃ t : State, exec .terminator s = .next t ∧ exec .tu s = .next { t with tmr := s.rate } ∧
      t = { s with
        cursor := 0, loops := s.loops + 1, symq := .terminator, symqv := true,
        out := .emission .terminator } ∧
      t.loops.toNat = (s.loops.toNat + 1) % 65536 ∧
      t.ports.symValid = true ∧ t.ports.sym = 0b11 ∧ t.ports.rgb = 0xFF0000 := by
  obtain ⟨hsym, htu⟩ := exec_of_tickFinds ⟨hw, ha, ht, hw.readCell_last ha hc⟩
  refine ⟨s.tick .terminator, hsym, htu, State.tick_of_last hc _, ?_, s.tick_ports _⟩
  rw [State.tick_loops_toNat, hc]
  rfl

/-- R131: only the tick at the last index counts a loop or moves CURSOR otherwise than one further. -/
theorem State.cursor_last_of_tick_wraps {s : State} {y : FrameSymbol}
    (h : (s.tick y).loops ≠ s.loops ∨ (s.tick y).cursor.val ≠ s.cursor.val + 1) :
    s.cursor = 40 := by
  by_contra hc
  rw [State.tick_of_ne_last hc] at h
  exact h.elim (fun hl => hl rfl) (fun hcur => hcur (Fin.val_add_one_of_lt' (by omega)))

/-- R165, for the symbols: one whose next state wraps or counts is TERMINATOR. -/
theorem execSymbol_wraps {s t : State} {y : FrameSymbol} (h : execSymbol y s = .next t)
    (hwrap : t.loops ≠ s.loops ∨ t.cursor.val ≠ s.cursor.val + 1) :
    y = .terminator ∧ s.cursor = 40 := by
  obtain ⟨⟨hw, ha, -, hy⟩, rfl⟩ := execSymbol_eq_next h
  have hc := State.cursor_last_of_tick_wraps hwrap
  exact ⟨hy.symm.trans (hw.readCell_last ha hc), hc⟩

/-- R165, for the TU: idle or within an interval it moves neither register. -/
theorem execTu_wraps {s t : State} (h : execTu s = .next t)
    (hwrap : t.loops ≠ s.loops ∨ (t.cursor ≠ s.cursor ∧ t.cursor.val ≠ s.cursor.val + 1)) :
    t.out = .emission .terminator ∧ s.cursor = 40 := by
  rcases execTu_cases s with ⟨-, e⟩ | ⟨-, -, e⟩ | ⟨-, -, -, e⟩ | ⟨hw, ha, -, e⟩ <;>
    rw [e] at h <;> cases h
  case inr.inl => exact absurd hwrap (by simp)
  case inr.inr.inl => exact absurd hwrap (by simp)
  case inr.inr.inr =>
    have hc := State.cursor_last_of_tick_wraps (hwrap.imp_right And.right)
    exact ⟨congrArg Output.emission (hw.readCell_last ha hc), hc⟩

/-- Settles O30. -/
theorem terminatorWrapsAndCounts : Obligations.TerminatorWrapsAndCounts :=
  ⟨fun _ => tickFinds_at_last,
    fun s _ y h => execSymbol_wraps ((exec_symbol_instr y s).symm.trans h),
    fun _ _ => execTu_wraps⟩

/-! ### The held output and its ports (R14, R166, R167) -/

/-- R166: a TU without a tick holds what was held, and the tick holds its symbol. -/
theorem execTu_held {s t : State} (h : execTu s = .next t) :
    (t.out.sym = none ∧ SameHeldOutput s t) ∨
      ∃ y, t.out.sym = some y ∧ t.symq = y ∧ t.symqv = true := by
  rcases execTu_cases s with ⟨-, e⟩ | ⟨-, -, e⟩ | ⟨-, -, -, e⟩ | ⟨-, -, -, e⟩ <;>
    rw [e] at h <;> cases h
  · exact .inl ⟨rfl, rfl, rfl⟩
  · exact .inl ⟨rfl, rfl, rfl⟩
  · exact .inr ⟨_, rfl, rfl, rfl⟩

/-- R166: no command emits, and none writes the held output. -/
theorem applyEvent_cmd_held {w : CommandWord} {s t : State}
    (h : applyEvent (.cmd w) s = .next t) : t.out.sym = none ∧ SameHeldOutput s t := by
  rcases applyEvent_cmd_cases h with ⟨r, rfl⟩ | ⟨f, -, rfl⟩ | ⟨f, -, -, rfl⟩
  · exact ⟨rfl, rfl, rfl⟩
  · exact ⟨rfl, rfl, rfl⟩
  · exact ⟨rfl, by simp [SameHeldOutput]⟩

/-- Settles O44: an event but RESET emits nothing and keeps the held output, or holds what it emits. -/
theorem heldOutputFollowsEmissions : Obligations.HeldOutputFollowsEmissions := by
  intro e s t h hne
  have hheld : (t.out.sym = none ∧ SameHeldOutput s t) ∨
      ∃ y, t.out.sym = some y ∧ t.symq = y ∧ t.symqv = true := by
    cases e with
    | reset => exact absurd rfl hne
    | tu => exact execTu_held h
    | cmd w => exact .inl (applyEvent_cmd_held h)
  rcases hheld with ⟨ho, hsame⟩ | ⟨y, ho, hsymq⟩
  · rw [ho]
    exact ⟨fun _ => hsame, nofun⟩
  · rw [ho]
    exact ⟨nofun, fun z hz => Option.some.inj hz ▸ hsymq⟩

/-- R167: the level ports of the held symbol. -/
theorem State.ports_of_symq {s : State} {y : FrameSymbol} (h : s.symq = y) :
    s.ports.rgb = color y ∧ s.ports.symQ = y.code := by
  rw [← h]
  exact ⟨rfl, rfl⟩

/-- R160: the ports of the symbol emitted, if any. -/
theorem State.ports_of_sym {s : State} {o : Option FrameSymbol} (h : s.out.sym = o) :
    s.ports.symValid = o.isSome ∧ s.ports.sym = symPort o := by
  rw [← h]
  exact ⟨rfl, rfl⟩

/-- Settles O56. -/
theorem portsShowSymbolAndColour : Obligations.PortsShowSymbolAndColour :=
  fun _ => ⟨State.ports_of_symq, State.ports_of_symq, State.ports_of_symq, State.ports_of_symq,
    State.ports_of_sym, fun _ => State.ports_of_sym⟩

/-! ### Responses and emissions along a run (R171, R172) -/

/-- The response of the first event, if it has one, comes first among those of the run. -/
theorem responses_cons {e : Event} {rest : List Event} {s t : State}
    (h : applyEvent e s = .next t) :
    responses (e :: rest) s = t.out.rsp.toList ++ responses rest t := by
  rw [responses, traceEvents_cons_next h]
  cases hr : t.out.rsp with
  | none => exact List.filterMap_cons_none hr
  | some r => exact List.filterMap_cons_some hr

/-- R145: a command responds once, a TU and a RESET do not. -/
theorem length_rsp_of_applyEvent {e : Event} {s t : State} (h : applyEvent e s = .next t) :
    t.out.rsp.toList.length = if e != .tu && e != .reset then 1 else 0 := by
  cases e with
  | reset => cases h; rfl
  | tu =>
    obtain ⟨hr, -⟩ := execTu_out h
    rw [hr]
    rfl
  | cmd w =>
    obtain ⟨-, r, hr⟩ := applyEvent_cmd_out h
    rw [hr]
    rfl

/-- Settles O43, by induction on the events: in a well-formed state each of them completes. -/
theorem oneResponsePerCommand : Obligations.OneResponsePerCommand := by
  intro evs s hw
  induction evs generalizing s with
  | nil => rfl
  | cons e rest ih =>
    obtain ⟨t, ht⟩ := applyEvent_next e hw
    rw [responses_cons ht, List.length_append, length_rsp_of_applyEvent ht,
      ih t (exec_keeps_wellFormed hw ht), List.countP_cons, Nat.add_comm]

/-- R172: consecutive ticks of a session find neighbours of its frame, from the last cell to the first
too. -/
theorem tickSymbol_ne_succ (v : IdBits) (j : Nat) :
    tickSymbol (toFrame v) j ≠ tickSymbol (toFrame v) (j + 1) := by
  have hsucc : (⟨j % 41, Nat.mod_lt _ (by decide)⟩ + 1 : Fin 41) =
      ⟨(j + 1) % 41, Nat.mod_lt _ (by decide)⟩ := by
    rw [Fin.ext_iff, Fin.val_add]
    exact Nat.mod_add_mod j 41 1
  rw [tickSymbol, tickSymbol, toFrame_getElem, toFrame_getElem, ← hsucc]
  exact frameCell_ne_succ v _

/-- Settles O36: the emissions of a run are the symbols of consecutive ticks of the session's clock. -/
theorem consecutiveEmissionsDiffer : Obligations.ConsecutiveEmissionsDiffer := by
  intro s evs hw ha hevs
  obtain ⟨-, hemit⟩ := (hw.sessionAt ha).run hevs
  rw [hemit, tickSymbols, List.isChain_map]
  refine (List.Ico.isChain_succ _ _).imp fun a b hb => ?_
  rw [hb, hw.frame_eq ha]
  exact tickSymbol_ne_succ _ a

end Sys2Proof.Machine

/-! SUPPORT and proofs of the family of spec/60_exceptions.md. First when an identifier is refused and how
START orders its errors; then what a response tells of the step that gave it; last, that every event
completes and that an event is applied to one instance alone. -/

namespace Sys2Proof.Machine

/-! ### The errors of ENC and START, in order (R181, R186) -/

/-- R181: the causes of InvalidIdentifier are the ways an identifier is not valid. -/
theorem not_identifierValid_iff (f : CommandFields) :
    ¬ IdentifierValid f ↔ f.idLen ≠ 5 ∨ ∃ j : Fin 8, j.val < 5 ∧ hexval (slot f j) = none := by
  rw [IdentifierValid, not_and_or]
  simp

/-- R186: with a valid identifier START answers without payload, and some other code than
InvalidIdentifier. -/
theorem execStart_valid {f : CommandFields} (hv : IdentifierValid f) (s : State) :
    ∃ t c, execStart f s = .next t ∧ t.out = .answer c ∧ c ≠ .failed .invalidIdentifier := by
  cases ha : s.active with
  | true => exact ⟨_, .failed .alreadyRunning, execStart_active hv ha, rfl, nofun⟩
  | false =>
    rcases le_or_gt (effectiveRate f) 0 with hr | hr
    · exact ⟨_, .failed .invalidRate, execStart_badRate hv ha hr, rfl, nofun⟩
    · exact ⟨_, .ok, execStart_begins hv ha hr, rfl, nofun⟩

/-- Settles O13: the listed causes are those of an invalid identifier, and neither command reports one
when the identifier is valid. -/
theorem invalidIdentifierCauses : Obligations.InvalidIdentifierCauses := by
  refine fun f s => ⟨fun hcause => ?_, fun hlen hdig i t r hi h hr => ?_⟩
  · have hv : ¬ IdentifierValid f := (not_identifierValid_iff f).mpr hcause
    exact ⟨execEnc_invalid hv s, execStart_invalid hv s⟩
  · have hv : IdentifierValid f := ⟨hlen, fun j hj => Option.isSome_iff_ne_none.mpr (hdig j hj)⟩
    rcases hi with rfl | rfl
    · obtain rfl := Host.Outcome.next.inj ((execEnc_valid hv s).symm.trans h)
      cases hr
      exact nofun
    · obtain ⟨u, c, hu, ho, hc⟩ := execStart_valid hv s
      obtain rfl := Host.Outcome.next.inj (hu.symm.trans h)
      rw [ho] at hr
      cases hr
      exact hc

/-- Settles O18: the four rows of the table are START's four equations. -/
theorem startErrorPriority : Obligations.StartErrorPriority := by
  refine fun f s => ⟨fun hv => execStart_invalid hv s, fun hv => execStart_active hv,
    fun hv => execStart_badRate hv,
    fun hv ha hr => ⟨_, execStart_begins hv ha (by omega), rfl, rfl⟩, ?_⟩
  rcases execEnc_cases f s with ⟨-, e⟩ | e
  · exact ⟨_, _, e, rfl, .inl rfl⟩
  · exact ⟨_, _, e, rfl, .inr rfl⟩

/-! ### What a response tells of the state (R180, R182) -/

/-- The response `r` of the step from `s` to `t` is OK, or that of an error which was raised and so
changed nothing; the error is not Overflow. -/
def OkOrRaised (s t : State) (r : Response) : Prop :=
  r.code = .ok ∨ ∃ e : CommandError, e ≠ .overflow ∧ r.code = .failed e ∧ raise e s = .next t

theorem okOrRaised_of_raise {e : CommandError} {s t : State} {r : Response} (he : e ≠ .overflow)
    (h : raise e s = .next t) (hr : t.out.rsp = some r) : OkOrRaised s t r := by
  refine .inr ⟨e, he, ?_, h⟩
  cases h
  cases hr
  rfl

theorem execEnc_okOrRaised {f : CommandFields} {s t : State} {r : Response}
    (h : execEnc f s = .next t) (hr : t.out.rsp = some r) : OkOrRaised s t r := by
  rcases execEnc_cases f s with ⟨-, e⟩ | e <;> rw [e] at h
  · cases h; cases hr; exact .inl rfl
  · exact okOrRaised_of_raise (e := .invalidIdentifier) nofun h hr

theorem execStart_okOrRaised {f : CommandFields} {s t : State} {r : Response}
    (h : execStart f s = .next t) (hr : t.out.rsp = some r) : OkOrRaised s t r := by
  rcases execStart_cases f s with ⟨-, -, -, e⟩ | ⟨_, he, e⟩ <;> rw [e] at h
  · cases h; cases hr; exact .inl rfl
  · exact okOrRaised_of_raise he h hr

theorem execStop_okOrRaised {s t : State} {r : Response}
    (h : execStop s = .next t) (hr : t.out.rsp = some r) : OkOrRaised s t r := by
  obtain ⟨u, hu, -, ho⟩ := execStop_next s
  obtain rfl := Host.Outcome.next.inj (hu.symm.trans h)
  rw [ho] at hr
  cases hr
  exact .inl rfl

/-- R161: a symbol emits and does not respond. -/
theorem execSymbol_rsp {y : FrameSymbol} {s t : State} (h : execSymbol y s = .next t) :
    t.out.rsp = none := by
  obtain ⟨-, rfl⟩ := execSymbol_eq_next h
  rfl

/-- R180, R182: whatever the instruction, a response is OK or that of a raised error. -/
theorem exec_okOrRaised {i : Instr} {s t : State} {r : Response} (h : exec i s = .next t)
    (hr : t.out.rsp = some r) : OkOrRaised s t r := by
  have silent (hn : t.out.rsp = none) : OkOrRaised s t r := nomatch hn.symm.trans hr
  cases i with
  | nop f => cases h; cases hr; exact .inl rfl
  | enc f => exact execEnc_okOrRaised h hr
  | start f => exact execStart_okOrRaised h hr
  | stop f => exact execStop_okOrRaised h hr
  | zero => exact silent (execSymbol_rsp (y := .zero) h)
  | one => exact silent (execSymbol_rsp (y := .one) h)
  | delimiter => exact silent (execSymbol_rsp (y := .delimiter) h)
  | terminator => exact silent (execSymbol_rsp (y := .terminator) h)
  | tu => exact silent (execTu_out h).1
  | reset => cases h; exact silent rfl

/-- Settles O22: a response other than OK is that of a raised error. -/
theorem failedCommandChangesNothing : Obligations.FailedCommandChangesNothing := by
  intro i s t r h hr hne
  obtain ⟨e, -, hcode, hraise⟩ := (exec_okOrRaised h hr).resolve_left hne
  rw [hcode]
  cases hraise
  exact ⟨⟨rfl, rfl, rfl, rfl, rfl, rfl, rfl, rfl⟩, rfl, rfl⟩

/-- Settles O23. -/
theorem overflowNeverReported : Obligations.OverflowNeverReported := by
  refine ⟨fun _ => toBitVector_of_ge, fun i s t r h hr hover => ?_⟩
  rcases exec_okOrRaised h hr with hok | ⟨e, he, hcode, -⟩
  · exact nomatch hok.symm.trans hover
  · exact he (ResponseCode.failed.inj (hcode.symm.trans hover))

/-! ### Every event completes (R192, R146) -/

/-- R146: a step completes, be an event pending or not. -/
theorem step_completes {s : State} (hw : s.WellFormed) : Completes (step s) := by
  cases hp : s.pending with
  | nil => exact ⟨s.quiet, step_nil hp⟩
  | cons e rest =>
    rw [step_cons hp]
    exact applyEvent_next e (hw.with_pending rest)

/-- R8: the trace of a run from a well-formed state has one output for each event. -/
theorem length_traceEvents (evs : List Event) {s : State} (hw : s.WellFormed) :
    (traceEvents evs s).length = evs.length := by
  induction evs generalizing s with
  | nil => rfl
  | cons e rest ih =>
    obtain ⟨t, ht⟩ := applyEvent_next e hw
    rw [traceEvents_cons_next ht, List.length_cons, List.length_cons,
      ih (exec_keeps_wellFormed hw ht)]

/-- Settles O40. -/
theorem everyEventCompletes : Obligations.EveryEventCompletes :=
  fun evs _ hw => ⟨step_completes hw, safeRun_of_wellFormed evs hw, length_traceEvents evs hw⟩

/-! ### Several instances (R196) -/

/-- Everything an event applied to instance `k` can do when it answers: nothing, or replace that
instance's state. -/
theorem applyAt_eq_next {k : Nat} {e : Event} {sys sys' : List State}
    (h : applyAt k e sys = .next sys') : sys' = sys ∨ ∃ t, sys' = sys.set k t := by
  unfold applyAt at h
  split at h
  · cases h; exact .inl rfl
  · split at h <;> cases h
    exact .inr ⟨_, rfl⟩

/-- Settles O58. -/
theorem instancesShareNothing : Obligations.InstancesShareNothing := by
  intro k j e sys sys' h hjk
  rcases applyAt_eq_next h with rfl | ⟨t, rfl⟩
  · exact ⟨rfl, rfl⟩
  · exact ⟨List.getElem?_set_ne hjk.symm, List.length_set⟩

end Sys2Proof.Machine

/-! SUPPORT and proofs of the family of spec/70_reset_and_hazards.md: what RESET writes, and what the
ports show of an instance without a session. -/

namespace Sys2Proof.Machine

/-! ### Reset (R211, R212) -/

/-- Settles O37: RESET has one outcome, which reads of the state before it only the pending events. -/
theorem resetWritesEveryRegister : Obligations.ResetWritesEveryRegister :=
  fun s => execReset_eq s

/-- R25: without a session and after an event with no output, the ports show the held output and
nothing else; R20's idle values fix CURSOR and LOOPS. -/
theorem State.WellFormed.ports_of_idle {s : State} (hw : s.WellFormed) (ha : s.active = false)
    (ho : s.out = .silent) :
    s.ports =
      { rsp := none, symValid := false, sym := 0b00, symQ := s.symq.code, symQv := s.symqv,
        rgb := color s.symq, active := false, cursor := 0, loops := 0 } := by
  obtain ⟨hidle, -, -, -⟩ := hw
  obtain ⟨-, hcursor, hloops, -, -⟩ := hidle ha
  rw [State.ports, ha, ho, hcursor, hloops]
  rfl

/-- Settles O38: the ports are those of an idle state that holds DELIMITER, whose colour is black. -/
theorem resetStateIsWellFormed : Obligations.ResetStateIsWellFormed :=
  ⟨State.wellFormed_reset, State.wellFormed_reset.ports_of_idle State.reset_active State.reset_out⟩

end Sys2Proof.Machine
